-- ==== Sys2Proof/Word.lean ====
section
/-!
DEFINITION. Word.lean: the widths of the machine (00_scope.md R8, R10).  All values are unsigned (R10, 42_alu.md
R133); arithmetic on these types wraps modulo 2^8 or 2^16, and nothing sign-extends.
-/

namespace Sys2Proof

/-- `u8` of R10: a general register, a timer, a byte of memory. -/
abbrev Byte := BitVec 8

/-- `u16` of R10: I, pc, a stack entry, an instruction word. -/
abbrev Word := BitVec 16

/-- The 12-bit address field `nnn` of an instruction word (30_encoding.md R75). -/
abbrev Addr12 := BitVec 12

/-- A general register's number, V0 to VF (10_state.md R21): every value of the 4-bit field names a register. -/
abbrev Reg := Fin 16

/-- VF, the flag register, is V[15] (00_scope.md R12, 10_state.md R22). -/
abbrev VF : Reg := 15

end Sys2Proof
end

