-- ==== Sys2Proof/Syntax.lean ====
section
/-!
DEFINITION. Syntax.lean: the 34 instructions of spec/opcode_table.json, one constructor a row, with the operands of
30_encoding.md R75: `x`, `y` registers, `kk` an 8-bit immediate, `nnn` a 12-bit address, `n` a count of sprite rows.
Ignored bits (R79) are no operand.
-/

namespace Sys2Proof

inductive Instr where
  /-- 00E0 CLS (44_display.md R170). -/
  | cls
  /-- 00EE RET (41_control_flow.md R100). -/
  | ret
  /-- 1nnn JP nnn (R101). -/
  | jp (nnn : Addr12)
  /-- 2nnn CALL nnn (R102). -/
  | call (nnn : Addr12)
  /-- 3xkk SE Vx, kk (R103). -/
  | seVkk (x : Reg) (kk : Byte)
  /-- 4xkk SNE Vx, kk (R104). -/
  | sneVkk (x : Reg) (kk : Byte)
  /-- 5xy0 SE Vx, Vy (R105). -/
  | seVV (x y : Reg)
  /-- 6xkk LD Vx, kk (42_alu.md R121). -/
  | ldVkk (x : Reg) (kk : Byte)
  /-- 7xkk ADD Vx, kk (R122). -/
  | addVkk (x : Reg) (kk : Byte)
  /-- 8xy0 LD Vx, Vy (R123). -/
  | ldVV (x y : Reg)
  /-- 8xy1 OR Vx, Vy (R124). -/
  | orVV (x y : Reg)
  /-- 8xy2 AND Vx, Vy (R125). -/
  | andVV (x y : Reg)
  /-- 8xy3 XOR Vx, Vy (R126). -/
  | xorVV (x y : Reg)
  /-- 8xy4 ADD Vx, Vy (R127). -/
  | addVV (x y : Reg)
  /-- 8xy5 SUB Vx, Vy (R128). -/
  | subVV (x y : Reg)
  /-- 8xy6 SHR Vx (R129); y is ignored. -/
  | shrV (x : Reg)
  /-- 8xy7 SUBN Vx, Vy (R130). -/
  | subnVV (x y : Reg)
  /-- 8xyE SHL Vx (R131); y is ignored. -/
  | shlV (x : Reg)
  /-- 9xy0 SNE Vx, Vy (R106). -/
  | sneVV (x y : Reg)
  /-- Annn LD I, nnn (43_index_and_memory.md R150). -/
  | ldI (nnn : Addr12)
  /-- Bnnn JP V0, nnn (R107). -/
  | jpV0 (nnn : Addr12)
  /-- Cxkk RND Vx, kk (R132). -/
  | rnd (x : Reg) (kk : Byte)
  /-- Dxyn DRW Vx, Vy, n (44_display.md R171). -/
  | drw (x y : Reg) (n : Nat)
  /-- Ex9E SKP Vx (45_keys_and_timers.md R191). -/
  | skp (x : Reg)
  /-- ExA1 SKNP Vx (R192). -/
  | sknp (x : Reg)
  /-- Fx07 LD Vx, DT (R193). -/
  | ldVDt (x : Reg)
  /-- Fx0A LD Vx, K (R194). -/
  | ldVKey (x : Reg)
  /-- Fx15 LD DT, Vx (R195). -/
  | ldDtV (x : Reg)
  /-- Fx18 LD ST, Vx (R196). -/
  | ldStV (x : Reg)
  /-- Fx1E ADD I, Vx (R151). -/
  | addIV (x : Reg)
  /-- Fx29 LD F, Vx (R152). -/
  | ldFV (x : Reg)
  /-- Fx33 LD B, Vx (R153). -/
  | ldBV (x : Reg)
  /-- Fx55 LD [I], Vx (R154). -/
  | ldMiV (x : Reg)
  /-- Fx65 LD Vx, [I] (R155). -/
  | ldVMi (x : Reg)
  deriving DecidableEq, Repr

end Sys2Proof
end

