-- ==== Sys2Proof/WellFormed.lean ====
section
/-!
DEFINITION. WellFormed.lean: which instructions an encoding can hold.  `x`, `y`, `kk` and `nnn` are bounded by their
types, because every value of their fields is legal (10_state.md R21, 30_encoding.md R75).  The one operand that is a
plain count is Dxyn's number of rows, "a 4-bit unsigned count of sprite rows, 0 to 15" (R75): its bound is the check.
-/

namespace Sys2Proof

/-- The largest row count that the 4-bit field `n` holds (R75). -/
abbrev maxRows : Nat := 15

/-- `i.wf`: every operand of `i` fits its field.  One arm a constructor, so that a new instruction cannot slip past. -/
def Instr.wf : Instr → Bool
  | .drw _ _ n => decide (n ≤ maxRows)
  | .cls => true
  | .ret => true
  | .jp _ => true
  | .call _ => true
  | .seVkk _ _ => true
  | .sneVkk _ _ => true
  | .seVV _ _ => true
  | .ldVkk _ _ => true
  | .addVkk _ _ => true
  | .ldVV _ _ => true
  | .orVV _ _ => true
  | .andVV _ _ => true
  | .xorVV _ _ => true
  | .addVV _ _ => true
  | .subVV _ _ => true
  | .shrV _ => true
  | .subnVV _ _ => true
  | .shlV _ => true
  | .sneVV _ _ => true
  | .ldI _ => true
  | .jpV0 _ => true
  | .rnd _ _ => true
  | .skp _ => true
  | .sknp _ => true
  | .ldVDt _ => true
  | .ldVKey _ => true
  | .ldDtV _ => true
  | .ldStV _ => true
  | .addIV _ => true
  | .ldFV _ => true
  | .ldBV _ => true
  | .ldMiV _ => true
  | .ldVMi _ => true

end Sys2Proof
end

