-- ==== Sys2Proof/Decode.lean ====
section
/-!
DEFINITION. Decode.lean: the decoder of 30_encoding.md R73 to R79, total on any bytes and rejecting by name, then the
encoder, written from the format table of R74, and the opcode table itself (spec/opcode_table.json) as mask and
pattern rows.
-/

namespace Sys2Proof

/-! ## The fields of an instruction word (R73), bit 0 the least significant (00_scope.md R11) -/

/-- `opcode = bits[15:12]`. -/
def Field.opcode (w : Word) : BitVec 4 := w.extractLsb' 12 4

/-- `x = bits[11:8]`. -/
def Field.x (w : Word) : Reg := (w.extractLsb' 8 4).toFin

/-- `y = bits[7:4]`. -/
def Field.y (w : Word) : Reg := (w.extractLsb' 4 4).toFin

/-- `n = bits[3:0]`. -/
def Field.n (w : Word) : BitVec 4 := w.extractLsb' 0 4

/-- `kk = bits[7:0]`. -/
def Field.kk (w : Word) : Byte := w.extractLsb' 0 8

/-- `nnn = bits[11:0]`. -/
def Field.nnn (w : Word) : Addr12 := w.extractLsb' 0 12

/-! ## Decode (R76, R77) -/

/-- Why bytes do not decode. -/
inductive DecodeError where
  /-- Fewer than two bytes are left: every instruction is exactly 16 bits (R72). -/
  | truncated
  /-- The word is one of the illegal words of R77. -/
  | invalidInstruction (w : Word)
  deriving DecidableEq, Repr

/-- Family 0x0: the discriminant is the low 12 bits (R76). -/
def decodeFamily0 (w : Word) : Except DecodeError Instr :=
  match (Field.nnn w).toNat with
  | 0x0E0 => .ok .cls
  | 0x0EE => .ok .ret
  | _ => .error (.invalidInstruction w)

/-- Family 0x8: the discriminant is the low nibble (R76).  The nibbles 0, 1, 2, 3 are the spec's from general
knowledge (PRESUMED, log entry 12). -/
def decodeFamily8 (w : Word) : Except DecodeError Instr :=
  match (Field.n w).toNat with
  | 0x0 => .ok (.ldVV (Field.x w) (Field.y w))
  | 0x1 => .ok (.orVV (Field.x w) (Field.y w))
  | 0x2 => .ok (.andVV (Field.x w) (Field.y w))
  | 0x3 => .ok (.xorVV (Field.x w) (Field.y w))
  | 0x4 => .ok (.addVV (Field.x w) (Field.y w))
  | 0x5 => .ok (.subVV (Field.x w) (Field.y w))
  | 0x6 => .ok (.shrV (Field.x w))
  | 0x7 => .ok (.subnVV (Field.x w) (Field.y w))
  | 0xE => .ok (.shlV (Field.x w))
  | _ => .error (.invalidInstruction w)

/-- Family 0xE: the discriminant is the low byte (R76). -/
def decodeFamilyE (w : Word) : Except DecodeError Instr :=
  match (Field.kk w).toNat with
  | 0x9E => .ok (.skp (Field.x w))
  | 0xA1 => .ok (.sknp (Field.x w))
  | _ => .error (.invalidInstruction w)

/-- Family 0xF: the discriminant is the low byte (R76). -/
def decodeFamilyF (w : Word) : Except DecodeError Instr :=
  match (Field.kk w).toNat with
  | 0x07 => .ok (.ldVDt (Field.x w))
  | 0x0A => .ok (.ldVKey (Field.x w))
  | 0x15 => .ok (.ldDtV (Field.x w))
  | 0x18 => .ok (.ldStV (Field.x w))
  | 0x1E => .ok (.addIV (Field.x w))
  | 0x29 => .ok (.ldFV (Field.x w))
  | 0x33 => .ok (.ldBV (Field.x w))
  | 0x55 => .ok (.ldMiV (Field.x w))
  | 0x65 => .ok (.ldVMi (Field.x w))
  | _ => .error (.invalidInstruction w)

/-- `decode` of R70 and R76: the instruction of a word, or `invalidInstruction`.  Opcodes 0x5 and 0x9 have no
discriminant, so their low nibble is ignored (R79, 90_conflicts.md C6). -/
def decode (w : Word) : Except DecodeError Instr :=
  match (Field.opcode w).toNat with
  | 0x0 => decodeFamily0 w
  | 0x1 => .ok (.jp (Field.nnn w))
  | 0x2 => .ok (.call (Field.nnn w))
  | 0x3 => .ok (.seVkk (Field.x w) (Field.kk w))
  | 0x4 => .ok (.sneVkk (Field.x w) (Field.kk w))
  | 0x5 => .ok (.seVV (Field.x w) (Field.y w))
  | 0x6 => .ok (.ldVkk (Field.x w) (Field.kk w))
  | 0x7 => .ok (.addVkk (Field.x w) (Field.kk w))
  | 0x8 => decodeFamily8 w
  | 0x9 => .ok (.sneVV (Field.x w) (Field.y w))
  | 0xA => .ok (.ldI (Field.nnn w))
  | 0xB => .ok (.jpV0 (Field.nnn w))
  | 0xC => .ok (.rnd (Field.x w) (Field.kk w))
  | 0xD => .ok (.drw (Field.x w) (Field.y w) (Field.n w).toNat)
  | 0xE => decodeFamilyE w
  | 0xF => decodeFamilyF w
  | _ => .error (.invalidInstruction w)

/-- The big-endian word of two bytes: the byte at the lower address supplies bits 15:8 (20_memory.md R54). -/
def wordOfBytes (hi lo : Byte) : Word := hi ++ lo

/-- Decoding bytes in address order: the first instruction and the bytes after it. -/
def decodeBytes : List Byte → Except DecodeError (Instr × List Byte)
  | hi :: lo :: rest =>
    match decode (wordOfBytes hi lo) with
    | .ok i => .ok (i, rest)
    | .error e => .error e
  | _ => .error .truncated

/-! ## Encode (R74) -/

/-- The 4-bit field of a register number (R75). -/
def regField (r : Reg) : BitVec 4 := BitVec.ofFin r

/-- Format `NNN`. -/
def formNNN (op : BitVec 4) (nnn : Addr12) : Word := op ++ nnn

/-- Format `XKK`. -/
def formXKK (op : BitVec 4) (x : Reg) (kk : Byte) : Word := op ++ regField x ++ kk

/-- Formats `XY`, `XYF`, `X-F` and `XYN`: three nibbles after the opcode. -/
def formXYN (op : BitVec 4) (x y : Reg) (n : BitVec 4) : Word := op ++ regField x ++ regField y ++ n

/-- Format `XFF`. -/
def formXFF (op : BitVec 4) (x : Reg) (f : Byte) : Word := op ++ regField x ++ f

/-- The word of a well-formed instruction.  An ignored field (R79) is encoded as zeros, as the patterns' names
write it (DESIGN CHOICE, log entry 15). -/
def encode : Instr → Word
  | .cls => 0x00E0#16
  | .ret => 0x00EE#16
  | .jp nnn => formNNN 0x1#4 nnn
  | .call nnn => formNNN 0x2#4 nnn
  | .seVkk x kk => formXKK 0x3#4 x kk
  | .sneVkk x kk => formXKK 0x4#4 x kk
  | .seVV x y => formXYN 0x5#4 x y 0x0#4
  | .ldVkk x kk => formXKK 0x6#4 x kk
  | .addVkk x kk => formXKK 0x7#4 x kk
  | .ldVV x y => formXYN 0x8#4 x y 0x0#4
  | .orVV x y => formXYN 0x8#4 x y 0x1#4
  | .andVV x y => formXYN 0x8#4 x y 0x2#4
  | .xorVV x y => formXYN 0x8#4 x y 0x3#4
  | .addVV x y => formXYN 0x8#4 x y 0x4#4
  | .subVV x y => formXYN 0x8#4 x y 0x5#4
  | .shrV x => formXYN 0x8#4 x 0 0x6#4
  | .subnVV x y => formXYN 0x8#4 x y 0x7#4
  | .shlV x => formXYN 0x8#4 x 0 0xE#4
  | .sneVV x y => formXYN 0x9#4 x y 0x0#4
  | .ldI nnn => formNNN 0xA#4 nnn
  | .jpV0 nnn => formNNN 0xB#4 nnn
  | .rnd x kk => formXKK 0xC#4 x kk
  | .drw x y n => formXYN 0xD#4 x y (BitVec.ofNat 4 n)
  | .skp x => formXFF 0xE#4 x 0x9E#8
  | .sknp x => formXFF 0xE#4 x 0xA1#8
  | .ldVDt x => formXFF 0xF#4 x 0x07#8
  | .ldVKey x => formXFF 0xF#4 x 0x0A#8
  | .ldDtV x => formXFF 0xF#4 x 0x15#8
  | .ldStV x => formXFF 0xF#4 x 0x18#8
  | .addIV x => formXFF 0xF#4 x 0x1E#8
  | .ldFV x => formXFF 0xF#4 x 0x29#8
  | .ldBV x => formXFF 0xF#4 x 0x33#8
  | .ldMiV x => formXFF 0xF#4 x 0x55#8
  | .ldVMi x => formXFF 0xF#4 x 0x65#8

/-- The byte at the lower address, bits 15:8 (20_memory.md R54). -/
def hiByte (w : Word) : Byte := w.extractLsb' 8 8

/-- The byte at the higher address, bits 7:0 (20_memory.md R54). -/
def loByte (w : Word) : Byte := w.extractLsb' 0 8

/-- The bytes of a well-formed instruction in address order. -/
def encodeBytes (i : Instr) : List Byte := [hiByte (encode i), loByte (encode i)]

/-! ## The opcode table (spec/opcode_table.json) -/

/-- One row: a word belongs to it iff `word &&& mask = pattern`. -/
structure OpcodeRow where
  mnemonic : String
  mask : Word
  pattern : Word
  deriving DecidableEq, Repr

/-- Rows 00E0 to 7xkk. -/
def opcodeRowsLow : List OpcodeRow :=
  [⟨"CLS", 0xFFFF, 0x00E0⟩, ⟨"RET", 0xFFFF, 0x00EE⟩, ⟨"JP", 0xF000, 0x1000⟩, ⟨"CALL", 0xF000, 0x2000⟩,
   ⟨"SE_VK", 0xF000, 0x3000⟩, ⟨"SNE_VK", 0xF000, 0x4000⟩, ⟨"SE_VV", 0xF000, 0x5000⟩, ⟨"LD_VK", 0xF000, 0x6000⟩,
   ⟨"ADD_VK", 0xF000, 0x7000⟩]

/-- Rows 8xy_. -/
def opcodeRowsAlu : List OpcodeRow :=
  [⟨"LD_VV", 0xF00F, 0x8000⟩, ⟨"OR", 0xF00F, 0x8001⟩, ⟨"AND", 0xF00F, 0x8002⟩, ⟨"XOR", 0xF00F, 0x8003⟩,
   ⟨"ADD_VV", 0xF00F, 0x8004⟩, ⟨"SUB", 0xF00F, 0x8005⟩, ⟨"SHR", 0xF00F, 0x8006⟩, ⟨"SUBN", 0xF00F, 0x8007⟩,
   ⟨"SHL", 0xF00F, 0x800E⟩]

/-- Rows 9xy0 to Dxyn. -/
def opcodeRowsHigh : List OpcodeRow :=
  [⟨"SNE_VV", 0xF000, 0x9000⟩, ⟨"LD_I", 0xF000, 0xA000⟩, ⟨"JP_V0", 0xF000, 0xB000⟩, ⟨"RND", 0xF000, 0xC000⟩,
   ⟨"DRW", 0xF000, 0xD000⟩]

/-- Rows Ex__ and Fx__. -/
def opcodeRowsKeyTimer : List OpcodeRow :=
  [⟨"SKP", 0xF0FF, 0xE09E⟩, ⟨"SKNP", 0xF0FF, 0xE0A1⟩, ⟨"LD_V_DT", 0xF0FF, 0xF007⟩, ⟨"LD_V_K", 0xF0FF, 0xF00A⟩,
   ⟨"LD_DT_V", 0xF0FF, 0xF015⟩, ⟨"LD_ST_V", 0xF0FF, 0xF018⟩, ⟨"ADD_I_V", 0xF0FF, 0xF01E⟩,
   ⟨"LD_F_V", 0xF0FF, 0xF029⟩, ⟨"LD_B_V", 0xF0FF, 0xF033⟩, ⟨"LD_MI_V", 0xF0FF, 0xF055⟩, ⟨"LD_V_MI", 0xF0FF, 0xF065⟩]

/-- The 34 rows, in the table's order. -/
def opcodeRows : List OpcodeRow := opcodeRowsLow ++ opcodeRowsAlu ++ opcodeRowsHigh ++ opcodeRowsKeyTimer

/-- The instruction's mnemonic as the opcode table spells it. -/
def Instr.mnemonic : Instr → String
  | .cls => "CLS"
  | .ret => "RET"
  | .jp _ => "JP"
  | .call _ => "CALL"
  | .seVkk _ _ => "SE_VK"
  | .sneVkk _ _ => "SNE_VK"
  | .seVV _ _ => "SE_VV"
  | .ldVkk _ _ => "LD_VK"
  | .addVkk _ _ => "ADD_VK"
  | .ldVV _ _ => "LD_VV"
  | .orVV _ _ => "OR"
  | .andVV _ _ => "AND"
  | .xorVV _ _ => "XOR"
  | .addVV _ _ => "ADD_VV"
  | .subVV _ _ => "SUB"
  | .shrV _ => "SHR"
  | .subnVV _ _ => "SUBN"
  | .shlV _ => "SHL"
  | .sneVV _ _ => "SNE_VV"
  | .ldI _ => "LD_I"
  | .jpV0 _ => "JP_V0"
  | .rnd _ _ => "RND"
  | .drw _ _ _ => "DRW"
  | .skp _ => "SKP"
  | .sknp _ => "SKNP"
  | .ldVDt _ => "LD_V_DT"
  | .ldVKey _ => "LD_V_K"
  | .ldDtV _ => "LD_DT_V"
  | .ldStV _ => "LD_ST_V"
  | .addIV _ => "ADD_I_V"
  | .ldFV _ => "LD_F_V"
  | .ldBV _ => "LD_B_V"
  | .ldMiV _ => "LD_MI_V"
  | .ldVMi _ => "LD_V_MI"

/-! ## Words numbered as the opcode table numbers them -/

/-- The 16-bit word of `nbits` table bits, the bits above `nbits` being 0. -/
def tableWord (nbits w : Nat) : Word := BitVec.ofNat 16 (w % 2 ^ nbits)

/-- What the decoder reads from a table word, laid out in memory order and given to `decodeBytes`. -/
def decodeTableWord (nbits w : Nat) : Option Instr :=
  match decodeBytes [hiByte (tableWord nbits w), loByte (tableWord nbits w)] with
  | .ok (i, _) => some i
  | .error _ => none

end Sys2Proof
end

