-- ==== Sys2Proof/Machine/Flags.lean ====
section
/-!
DEFINITION. Machine/Flags.lean: every value written to VF as a flag (10_state.md R28), computed exactly from the
operands as they were before the instruction.  A flag is the byte 0 or 1.
-/

namespace Sys2Proof.Machine

/-- `c ? 1 : 0`. -/
def flagByte (c : Bool) : Byte := if c then 1 else 0

/-- 8xy4: 1 if the exact sum is above 255 (42_alu.md R127). -/
def carryFlag (a b : Byte) : Byte := flagByte (decide (a.toNat + b.toNat > 255))

/-- 8xy5 for `a - b`, 8xy7 for `b - a`: 1 if no borrow occurs (R128, R130). -/
def noBorrowFlag (a b : Byte) : Byte := flagByte (decide (a.toNat ≥ b.toNat))

/-- 8xy6: bit 0 before the shift (R129). -/
def shiftedOutRight (a : Byte) : Byte := a &&& 1

/-- 8xyE: bit 7 before the shift (R131). -/
def shiftedOutLeft (a : Byte) : Byte := (a >>> 7) &&& 1

/-- Dxyn: 1 if some pixel went from 1 to 0 (44_display.md R173). -/
def collisionFlag (collision : Bool) : Byte := flagByte collision

end Sys2Proof.Machine
end

