-- ==== Sys2Proof/Config.lean ====
section
/-!
DEFINITION. Config.lean: the vocabulary of what the source does not fix (00_scope.md R9): the shape of the model's
parameters, and the one free value of the machine.  A machine's parameters are a
field of its state, since a step takes nothing else (log entry 28); their defaults are
`Sys2Proof.Machine.defaultParams` in Machine/Params.lean.
-/

namespace Sys2Proof.Config

/-- `KEY_INDEX_POLICY` (45_keys_and_timers.md R190): what Ex9E and ExA1 do when V[x] is above 15. -/
inductive KeyIndexPolicy where
  | fault
  | mask
  deriving DecidableEq, Repr

/-- `FONT` (10_state.md R44): 16 glyphs, 5 bytes each, one byte a row, top row first. -/
abbrev Font := Vector (Vector Byte 5) 16

/-- The parameters of R9 that have a value: the bounds of the executable region, the lowest address an
instruction may write, the key-index policy and the font. -/
structure Params where
  fetchLo : Nat
  fetchHi : Nat
  storeLo : Nat
  keyIndexPolicy : KeyIndexPolicy
  font : Font
  deriving DecidableEq, Repr

/-- `RNG` (R9), `draw_byte()` (00_scope.md R15): the byte that the n-th execution of Cxkk draws.  FREE VALUE: it has
no body that a proof could use, so every statement about it holds for every byte (DESIGN CHOICE, safe; log entry 6). -/
opaque drawByte : Nat → Byte

/-- 4096 bytes of memory, addresses 0x000 to 0xFFF (R8, 20_memory.md R50). -/
abbrev memSize : Nat := 0x1000

/-- The program base and reset pc (R8, 20_memory.md R53). -/
abbrev programBase : Nat := 0x200

/-- The largest ROM, 4096 − 0x200 = 3584 bytes (R8, R53). -/
abbrev maxRom : Nat := memSize - programBase

/-- The font base (R8, 10_state.md R44). -/
abbrev fontBase : Nat := 0x050

end Sys2Proof.Config
end

