-- ==== Sys2Proof/Machine/Params.lean ====
section
/-!
DEFINITION. Machine/Params.lean: which values the parameters of 00_scope.md R9 may have, and the default of each, which
the spec chooses in 92_eei_decisions.md (D1, D2, D6, D14).  A machine holds its parameters in `State.params`; every
meaning, the fetch and the memory read them there, so a statement about every state holds for every value of them.
-/

namespace Sys2Proof.Config

/-- The values the source admits: the executable region lies in memory ("both instruction bytes lie within `memory`",
30_encoding.md R71), no store reaches the font ("Immutable thereafter", 10_state.md R45), and the low nibble of every
font byte is 0 (R46).  DEDUCED, log entry 28. -/
def Params.wf (p : Params) : Bool :=
  decide (p.fetchHi < memSize) && decide (fontBase + 80 ≤ p.storeLo) &&
    decide (∀ (d : Fin 16) (j : Fin 5), (p.font.get d).get j &&& 0x0F#8 = 0#8)

end Sys2Proof.Config

namespace Sys2Proof.Machine

/-- The default `FONT` of 10_state.md R46, glyph by glyph (PRESUMED by the spec from general knowledge; unsafe; log
entry 1). -/
def font : Config.Font :=
  #v[#v[0xF0, 0x90, 0x90, 0x90, 0xF0],
     #v[0x20, 0x60, 0x20, 0x20, 0x70],
     #v[0xF0, 0x10, 0xF0, 0x80, 0xF0],
     #v[0xF0, 0x10, 0xF0, 0x10, 0xF0],
     #v[0x90, 0x90, 0xF0, 0x10, 0x10],
     #v[0xF0, 0x80, 0xF0, 0x10, 0xF0],
     #v[0xF0, 0x80, 0xF0, 0x90, 0xF0],
     #v[0xF0, 0x10, 0x20, 0x40, 0x40],
     #v[0xF0, 0x90, 0xF0, 0x90, 0xF0],
     #v[0xF0, 0x90, 0xF0, 0x10, 0xF0],
     #v[0xF0, 0x90, 0xF0, 0x90, 0x90],
     #v[0xE0, 0x90, 0xE0, 0x90, 0xE0],
     #v[0xF0, 0x80, 0x80, 0x80, 0xF0],
     #v[0xE0, 0x90, 0x90, 0x90, 0xE0],
     #v[0xF0, 0x80, 0xF0, 0x80, 0xF0],
     #v[0xF0, 0x80, 0xF0, 0x80, 0x80]]

/-- The defaults of R9: the executable region 0x200 to 0xFFF (D1, log entry 2), stores from 0x200 upward (D2, log
entry 3), an out-of-range key index raises (D6, log entry 5), the default font (D14, log entry 1). -/
def defaultParams : Config.Params where
  fetchLo := 0x200
  fetchHi := 0xFFF
  storeLo := 0x200
  keyIndexPolicy := .fault
  font := font

end Sys2Proof.Machine
end

