-- ==== Sys2Proof/Machine/State.lean ====
section
/-!
DEFINITION. Machine/State.lean: the state of the core (10_state.md R20) as plain data, the run state and the reasons
it records, the host operations that can wait at an instruction boundary, and the state after reset (R43,
70_reset_and_hazards.md R260).
-/

namespace Sys2Proof.Machine

/-- Why a step answers `fault`: never.  The type has no constructor, because every failure the spec describes halts
the core in a state the host reads (60_exceptions.md R222), and the model answers that state (log entry 8; safe). -/
inductive Fault
  deriving DecidableEq, Repr

/-- Why a step answers `refused`. -/
inductive Refusal where
  /-- An instruction of the opcode table that has no meaning yet, by its mnemonic: raised only by an arm of exec that
  says so (none does).  Safe: nothing is claimed of an instruction that is refused. -/
  | notModelled (mnemonic : String)
  deriving DecidableEq, Repr

/-- The reason of `Halted(reason)` (60_exceptions.md R220) with the information a halt records (R223). -/
inductive HaltReason where
  /-- Code 1: pc or a memory access outside its window; records the offending address, computed without wrap. -/
  | invalidAddress (a : Nat)
  /-- Code 2: an illegal word; records the word. -/
  | invalidInstruction (w : Word)
  /-- Code 3: a push at sp = 16. -/
  | stackOverflow
  /-- Code 4: a pop at sp = 0. -/
  | stackUnderflow
  /-- Code 5: a key index above 15; records the value. -/
  | keyIndexOutOfRange (v : Byte)
  /-- Code 6: the host's stop request, a halt reason that is no failure. -/
  | stopped
  deriving DecidableEq, Repr

/-- `run` (10_state.md R36). -/
inductive RunState where
  | running
  | awaitingKey (x : Reg)
  | halted (reason : HaltReason)
  deriving DecidableEq, Repr

/-- How a host operation can fail; the failure is the operation's, not the core's (60_exceptions.md R240, R242). -/
inductive HostFailure where
  /-- Code 7: a ROM image longer than 3584 bytes. -/
  | romTooLarge
  /-- Code 5: set_key with an index above 15. -/
  | keyIndexOutOfRange (k : Nat)
  deriving DecidableEq, Repr

/-- The host operations that change the core's state between two steps (60_exceptions.md R241 to R243). -/
inductive HostOp where
  | tick
  | setKey (k : Nat) (pressed : Bool)
  | requestStop
  deriving DecidableEq, Repr

/-- `fb[row][col]`: 32 rows of 64 pixels, true = lit, row 0 at the top, column 0 at the left (10_state.md R37). -/
abbrev Framebuffer := Vector (Vector Bool 64) 32

/-- The bytes of `mem` that differ from what they read as after reset (`Memory.unlisted`), sorted by address. -/
abbrev Memory := List Host.Cell

/-- The core's state, field for field that of R20, and the model's own three fields. -/
structure State where
  /-- General registers V0 to VF (R21). -/
  V : Vector Byte 16
  /-- Index register (R29). -/
  I : Word
  /-- Program counter: the address of the executing instruction's first byte (R24). -/
  pc : Word
  /-- Return addresses (R30); a pop leaves the entry it reads (R32). -/
  stack : Vector Word 16
  /-- The number of valid stack entries, 0 to 16 (R31). -/
  sp : Fin 17
  /-- Delay timer (R33). -/
  DT : Byte
  /-- Sound timer (R34). -/
  ST : Byte
  /-- Key-down states, true = pressed (R35). -/
  keys : Vector Bool 16
  /-- Framebuffer (R37). -/
  fb : Framebuffer
  /-- Memory 0x000 to 0xFFF (R38). -/
  mem : Memory
  /-- The Run Loop's state (R36). -/
  run : RunState
  /-- The MODEL's own: how many bytes Cxkk has drawn (log entry 6). -/
  draws : Nat
  /-- The MODEL's own: what the host does at each coming instruction boundary, soonest first; past the end of the
  list it does nothing (60_exceptions.md R226, R248; log entry 7). -/
  host : List (List HostOp)
  /-- The MODEL's own: the parameters of 00_scope.md R9, which the model takes as an argument and no step changes (log
  entry 28). -/
  params : Config.Params
  deriving DecidableEq, Repr

/-- What a step, an instruction's meaning among them, answers. -/
abbrev Result := Host.Outcome State Fault Refusal

/-- All pixels 0. -/
def Framebuffer.clear : Framebuffer := Vector.replicate 32 (Vector.replicate 64 false)

/-- R43, R260: every field zeroed, pc at 0x200, memory as after reset (nothing listed, so the font and zeros), run
Running, for given parameters.  `draws` and `host` are the model's own: DESIGN CHOICE, log entries 6 and 7. -/
def State.resetWith (p : Config.Params) : State where
  V := Vector.replicate 16 0
  I := 0
  pc := 0x200
  stack := Vector.replicate 16 0
  sp := 0
  DT := 0
  ST := 0
  keys := Vector.replicate 16 false
  fb := Framebuffer.clear
  mem := []
  run := .running
  draws := 0
  host := []
  params := p

/-- The state after reset of the machine with the default parameters (R9; log entry 28). -/
def State.reset : State := State.resetWith defaultParams

end Sys2Proof.Machine
end

