-- ==== Sys2Proof/Machine/Memory.lean ====
section
/-!
DEFINITION. Machine/Memory.lean: the one address space of 20_memory.md R50 as a list of the bytes that differ from
their reset value, in one canonical form, and its primitives MemRead and MemWrite (00_scope.md R13), one byte each.
The reset value of a byte depends on the parameter `FONT` (R44, R46), so it is an argument here; `State.read` and
`State.writeBytes` give it the machine's.
-/

namespace Sys2Proof.Machine

/-- What an address that is not listed reads as: its byte after reset (10_state.md R43), the font at 0x050 to 0x09F
(R44: glyph d, row j at 0x050 + 5·d + j) and 0 elsewhere.  Addresses above 0xFFF do not exist; no instruction reads
one (00_scope.md R13; log entry 17). -/
def Memory.unlisted (font : Config.Font) (a : Nat) : Byte :=
  if h : Config.fontBase ≤ a ∧ a < Config.fontBase + 80 then
    (font[(a - Config.fontBase) / 5]'(by simp only [Config.fontBase] at h ⊢; omega))[(a - Config.fontBase) % 5]'(by
      omega)
  else 0

/-- The byte listed for address `a`, if one is. -/
def Memory.lookup : Memory → Nat → Option Byte
  | [], _ => none
  | (b, v) :: m, a => if b = a then some v else Memory.lookup m a

/-- `MemRead(a, 1)`. -/
def Memory.read (font : Config.Font) (m : Memory) (a : Nat) : Byte := (m.lookup a).getD (Memory.unlisted font a)

/-- The list without its entry for `a`. -/
def Memory.erase : Memory → Nat → Memory
  | [], _ => []
  | (b, v) :: m, a => if b = a then Memory.erase m a else (b, v) :: Memory.erase m a

/-- The list with the entry `(a, v)` in its place, replacing one for `a`. -/
def Memory.insert : Memory → Nat → Byte → Memory
  | [], a, v => [(a, v)]
  | (b, u) :: m, a, v =>
    if a < b then (a, v) :: (b, u) :: m
    else if a = b then (a, v) :: m
    else (b, u) :: Memory.insert m a v

/-- `MemWrite(a, 1, v)`: writing what an unlisted address reads as removes the entry. -/
def Memory.write (font : Config.Font) (m : Memory) (a : Nat) (v : Byte) : Memory :=
  if v = Memory.unlisted font a then m.erase a else m.insert a v

/-- `k` consecutive bytes from `a` upward. -/
def Memory.readBytes (font : Config.Font) (m : Memory) (a : Nat) : Nat → List Byte
  | 0 => []
  | k + 1 => m.read font a :: Memory.readBytes font m (a + 1) k

/-- Consecutive bytes written from `a` upward, the first at `a`. -/
def Memory.writeBytes (font : Config.Font) (m : Memory) (a : Nat) : List Byte → Memory
  | [] => m
  | v :: vs => Memory.writeBytes font (m.write font a v) (a + 1) vs

/-- Addresses rise strictly from above `lo`. -/
def Memory.risesFrom : Nat → Memory → Bool
  | _, [] => true
  | lo, (a, _) :: m => decide (lo ≤ a) && Memory.risesFrom (a + 1) m

/-- The canonical form: addresses strictly rising, all of them in the address space, and no entry equal to what an
unlisted address reads as. -/
def Memory.wf (font : Config.Font) (m : Memory) : Bool :=
  Memory.risesFrom 0 m && m.all fun c => decide (c.1 < Config.memSize) && decide (c.2 ≠ Memory.unlisted font c.1)

/-- `MemRead(a, 1)` (R13). -/
def State.read (s : State) (a : Nat) : Byte := s.mem.read s.params.font a

/-- `MemWrite` of consecutive bytes from `a` upward (R13). -/
def State.writeBytes (s : State) (a : Nat) (vs : List Byte) : State :=
  { s with mem := s.mem.writeBytes s.params.font a vs }

end Sys2Proof.Machine
end

