-- ==== Sys2Proof/Machine/Operands.lean ====
section
/-!
DEFINITION. Machine/Operands.lean: the operand forms of the ISA (30_encoding.md R75, 43_index_and_memory.md R156):
registers, zero-extended addresses, bytes at I plus an offset, the font glyph's address, the key index, the BCD
digits and the sprite's start.
-/

namespace Sys2Proof.Machine

/-- `V[x]` as an operand (00_scope.md R12). -/
def State.reg (s : State) (x : Reg) : Byte := s.V.get x

/-- `zext_16(nnn)` (R75). -/
def zext16 (nnn : Addr12) : Word := nnn.setWidth 16

/-- The address of the `i`-th byte of an access through I: I + i, without wrap (R156). -/
def State.dataAddr (s : State) (i : Nat) : Nat := s.I.toNat + i

/-- Fx29: `0x050 + 5 * (V[x] & 0xF)` (43_index_and_memory.md R152). -/
def glyphAddr (v : Byte) : Word := BitVec.ofNat 16 (Config.fontBase + 5 * (v &&& 0xF#8).toNat)

/-- Fx33: the hundreds, tens and units of a byte, each 0 to 9, in the order they are stored (R153). -/
def bcdDigits (v : Byte) : List Byte :=
  [BitVec.ofNat 8 (v.toNat / 100), BitVec.ofNat 8 (v.toNat / 10 % 10), BitVec.ofNat 8 (v.toNat % 10)]

/-- Fx55: V[0] to V[x], x included (R154). -/
def State.regBlock (s : State) (x : Reg) : List Byte := s.V.toList.take (x.val + 1)

/-- `key_index(v)` for either policy (45_keys_and_timers.md R190). -/
def keyIndex (policy : Config.KeyIndexPolicy) (v : Byte) : Except HaltReason (Fin 16) :=
  if h : v.toNat ≤ 15 then .ok ⟨v.toNat, by omega⟩
  else match policy with
    | .fault => .error (.keyIndexOutOfRange v)
    | .mask => .ok (Fin.ofNat 16 (v &&& 0xF#8).toNat)

/-- Dxyn: the start column, `V[x] mod 64` (44_display.md R172). -/
def spriteCol (v : Byte) : Nat := v.toNat % 64

/-- Dxyn: the start row, `V[y] mod 32` (R172). -/
def spriteRow (v : Byte) : Nat := v.toNat % 32

end Sys2Proof.Machine
end

