-- ==== Sys2Proof/Machine/Ops.lean ====
section
/-!
DEFINITION. Machine/Ops.lean: the operations the meanings are written over: register writes, the program counter, the
call stack, the draw, the window checks, the failure (the one shared operation of 60_exceptions.md R222) with the
suspension and its resume beside it, and the fetch.
-/

namespace Sys2Proof.Machine

/-! ## Register writes -/

/-- `V[x] <- v` (00_scope.md R12). -/
def State.setReg (s : State) (x : Reg) (v : Byte) : State := { s with V := s.V.set x.val v x.isLt }

/-- `I <- v`. -/
def State.setI (s : State) (v : Word) : State := { s with I := v }

/-- `DT <- v`. -/
def State.setDT (s : State) (v : Byte) : State := { s with DT := v }

/-- `ST <- v`. -/
def State.setST (s : State) (v : Byte) : State := { s with ST := v }

/-- The framebuffer replaced. -/
def State.setFb (s : State) (fb : Framebuffer) : State := { s with fb := fb }

/-- A flag and a result: VF first, V[x] second, so that with x = 0xF the result stays (42_alu.md R120). -/
def State.setFlagged (s : State) (x : Reg) (flag result : Byte) : State := (s.setReg VF flag).setReg x result

/-! ## The program counter (10_state.md R25, 30_encoding.md R78) -/

/-- `pc <- target`. -/
def State.jump (s : State) (target : Word) : State := { s with pc := target }

/-- `pc <- (pc + 2) mod 2^16`. -/
def State.advance (s : State) : State := s.jump (s.pc + 2)

/-- `pc <- (pc + 4) mod 2^16` if the condition holds, else `(pc + 2) mod 2^16`. -/
def State.skipIf (s : State) (c : Bool) : State := if c then s.jump (s.pc + 4) else s.advance

/-! ## Failing, suspending, resuming -/

/-- `raise E(info)` (00_scope.md R14, 60_exceptions.md R222): the step's only effect is `run <- Halted(E)`.  There is
no return from it (R225). -/
def State.halt (s : State) (reason : HaltReason) : State := { s with run := .halted reason }

/-- `raise` as the answer of a step. -/
def raise (reason : HaltReason) (s : State) : Result := .next (s.halt reason)

/-- `suspend AwaitingKey(x)` (R14, 45_keys_and_timers.md R194): no other change. -/
def State.suspend (s : State) (x : Reg) : State := { s with run := .awaitingKey x }

/-- The resume of Fx0A by key `k` (R194): `V[x] <- k; pc <- (pc + 2) mod 2^16; run <- Running`. -/
def State.resume (s : State) (x : Reg) (k : Fin 16) : State :=
  { (s.setReg x (BitVec.ofNat 8 k.val)).advance with run := .running }

/-! ## The call stack (10_state.md R31, R32) -/

/-- Push: `stack[sp] <- v; sp <- sp + 1`, or StackOverflow at sp = 16. -/
def State.push (s : State) (v : Word) : Except HaltReason State :=
  if h : s.sp.val < 16 then
    .ok { s with stack := s.stack.set s.sp.val v h, sp := ⟨s.sp.val + 1, by omega⟩ }
  else .error .stackOverflow

/-- Pop: `sp <- sp - 1; v <- stack[sp]`, or StackUnderflow at sp = 0; the entry is kept. -/
def State.pop (s : State) : Except HaltReason (Word × State) :=
  if h : s.sp.val = 0 then .error .stackUnderflow
  else .ok (s.stack.get ⟨s.sp.val - 1, by omega⟩, { s with sp := ⟨s.sp.val - 1, by omega⟩ })

/-! ## The draw of Cxkk -/

/-- `draw_byte()` (00_scope.md R15): the next free byte, and the state in which it has been drawn. -/
def State.draw (s : State) : Byte × State := (Config.drawByte s.draws, { s with draws := s.draws + 1 })

/-! ## Window checks (20_memory.md R57), over the whole range, before any effect, without wrap -/

/-- `check_read(I, k)`, k ≥ 1: the reason to raise, if any.  It records `I + k - 1` (log entry 10). -/
def checkRead (i : Word) (k : Nat) : Option HaltReason :=
  if i.toNat + k - 1 > 0xFFF then some (.invalidAddress (i.toNat + k - 1)) else none

/-- `check_write(I, k)`, k ≥ 1, for a given `STORE_LO`.  It records the first bad address: I below `STORE_LO`, else
the least address of the range above 0xFFF (log entry 11). -/
def checkWrite (storeLo : Nat) (i : Word) (k : Nat) : Option HaltReason :=
  if i.toNat < storeLo then some (.invalidAddress i.toNat)
  else if i.toNat + k - 1 > 0xFFF then some (.invalidAddress (max i.toNat 0x1000))
  else none

/-- A meaning that first checks its range: a failing check raises, else the state the access leaves. -/
def guarded (check : Option HaltReason) (done : State) (s : State) : Result :=
  match check with
  | some reason => raise reason s
  | none => .next done

/-- `MemWrite` of consecutive bytes from I upward. -/
def State.store (s : State) (vs : List Byte) : State := s.writeBytes (s.dataAddr 0) vs

/-- `V[i] <- MemRead(I + i, 1)` for i in 0 .. x (43_index_and_memory.md R155). -/
def State.loadRegs (s : State) (x : Reg) : State :=
  { s with V := Vector.ofFn fun i => if i.val ≤ x.val then s.read (s.dataAddr i.val) else s.V.get i }

/-! ## Fetch and decode (30_encoding.md R71, R76) -/

/-- A fetch at `pc` is legal iff `FETCH_LO <= pc` and `pc + 1 <= FETCH_HI`, computed without wrap (R71). -/
def fetchable (fetchLo fetchHi : Nat) (pc : Word) : Bool := decide (fetchLo ≤ pc.toNat ∧ pc.toNat + 1 ≤ fetchHi)

/-- `fetch(pc)` (R71): the big-endian word at pc as memory stands at this step (20_memory.md R54, R64). -/
def State.fetch (s : State) : Except HaltReason Word :=
  if fetchable s.params.fetchLo s.params.fetchHi s.pc then
    .ok (wordOfBytes (s.read s.pc.toNat) (s.read (s.pc.toNat + 1)))
  else .error (.invalidAddress s.pc.toNat)

/-- Fetch, then decode; the first check that fails is the one reported (60_exceptions.md R226). -/
def State.fetchDecode (s : State) : Except HaltReason Instr :=
  match s.fetch with
  | .error reason => .error reason
  | .ok w =>
    match decode w with
    | .ok i => .ok i
    | .error _ => .error (.invalidInstruction w)

/-! ## Codes (60_exceptions.md R220) -/

/-- The code of a halt reason. -/
def HaltReason.code : HaltReason → Nat
  | .invalidAddress _ => 1
  | .invalidInstruction _ => 2
  | .stackOverflow => 3
  | .stackUnderflow => 4
  | .keyIndexOutOfRange _ => 5
  | .stopped => 6

/-- The code of a host operation's failure. -/
def HostFailure.code : HostFailure → Nat
  | .keyIndexOutOfRange _ => 5
  | .romTooLarge => 7

end Sys2Proof.Machine
end

