-- ==== Sys2Proof/Machine/Display.lean ====
section
/-!
DEFINITION. Machine/Display.lean: clear screen and the sprite rasterizer (44_display.md R170 to R175).
-/

namespace Sys2Proof.Machine

/-- `fb[r][c]`. -/
def Framebuffer.pixel (fb : Framebuffer) (r : Fin 32) (c : Fin 64) : Bool := (fb.get r).get c

/-- `fb[r][c] <- fb[r][c] ^ 1`. -/
def Framebuffer.flip (fb : Framebuffer) (r : Fin 32) (c : Fin 64) : Framebuffer :=
  fb.set r.val ((fb.get r).set c.val (!fb.pixel r c) c.isLt) r.isLt

/-- A draw in progress: the framebuffer, and whether a lit pixel has been turned off (R173). -/
structure Raster where
  fb : Framebuffer
  collision : Bool
  deriving DecidableEq, Repr

/-- One sprite bit that is 1: a collision if the pixel is lit, then the flip (R171, R173). -/
def Raster.flip (d : Raster) (r : Fin 32) (c : Fin 64) : Raster :=
  { fb := d.fb.flip r c, collision := d.collision || d.fb.pixel r c }

/-- Columns past 63 continue at column 0 (R172). -/
def wrapCol (c : Nat) : Fin 64 := Fin.ofNat 64 c

/-- Rows past 31 continue at row 0 (R172). -/
def wrapRow (r : Nat) : Fin 32 := Fin.ofNat 32 r

/-- Sprite bit `c` of a byte, counted from the left: bit 7 is the leftmost pixel (R174; log entry 13). -/
def spriteBit (b : Byte) (c : Nat) : Bool := b.getLsbD (7 - c)

/-- One row of a sprite: its 8 bits from the left, at columns `cx` upward. -/
def Raster.byte (d : Raster) (row : Fin 32) (cx : Nat) (b : Byte) : Raster :=
  (List.range 8).foldl (fun d c => if spriteBit b c then d.flip row (wrapCol (cx + c)) else d) d

/-- The rows of a sprite from the top, at rows `cy` upward. -/
def Raster.rows (d : Raster) (cx cy : Nat) : List Byte → Raster
  | [] => d
  | b :: bs => Raster.rows (d.byte (wrapRow cy) cx b) cx (cy + 1) bs

/-- The sprite of Dxyn: `n` bytes from I upward (R171). -/
def State.sprite (s : State) (n : Nat) : List Byte := s.mem.readBytes s.params.font (s.dataAddr 0) n

/-- The draw of R171 over the current framebuffer. -/
def State.raster (s : State) (x y : Reg) (n : Nat) : Raster :=
  Raster.rows { fb := s.fb, collision := false } (spriteCol (s.reg x)) (spriteRow (s.reg y)) (s.sprite n)

/-- 00E0 (R170). -/
def execCls (s : State) : Result := .next (s.setFb Framebuffer.clear).advance

/-- Dxyn (R171): with n = 0 nothing is read, so nothing is checked, and VF is still written. -/
def execDrw (x y : Reg) (n : Nat) (s : State) : Result :=
  guarded (if n > 0 then checkRead s.I n else none)
    ((s.setFb (s.raster x y n).fb).setReg VF (collisionFlag (s.raster x y n).collision)).advance s

end Sys2Proof.Machine
end

