-- ==== Sys2Proof/Machine/HostOps.lean ====
section
/-!
DEFINITION. Machine/HostOps.lean: the host operations of 60_exceptions.md R240 to R247, each a function of the state,
and the instruction boundary at which the scheduled ones are applied (R226, R248; 20_memory.md R61).
-/

namespace Sys2Proof.Machine

/-- `load_rom(bytes)` (R240): byte i lands at 0x200 + i; an image above 3584 bytes is rejected and nothing is copied.
Applied to a freshly reset state (70_reset_and_hazards.md R261; log entry 8). -/
def loadRom (bytes : List Byte) (s : State) : Except HostFailure State :=
  if bytes.length > Config.maxRom then .error .romTooLarge
  else .ok (s.writeBytes Config.programBase bytes)

/-- The launch state of R261 for given parameters: reset, then the ROM load. -/
def launch (p : Config.Params) (rom : List Byte) : Except HostFailure State := loadRom rom (State.resetWith p)

/-- `max(v - 1, 0)` of R241. -/
def countDown (v : Byte) : Byte := BitVec.ofNat 8 (v.toNat - 1)

/-- `tick()` (R241), in every run state. -/
def State.tick (s : State) : State := (s.setDT (countDown s.DT)).setST (countDown s.ST)

/-- `keys[k] <- pressed`. -/
def State.writeKey (s : State) (k : Fin 16) (pressed : Bool) : State :=
  { s with keys := s.keys.set k.val pressed k.isLt }

/-- `set_key(k, pressed)` for a legal index (R242): the update in every run state, and the resume of a suspended Fx0A
by a key that goes from released to pressed. -/
def State.setKey (s : State) (k : Fin 16) (pressed : Bool) : State :=
  match s.run with
  | .awaitingKey x =>
    if pressed && !s.keys.get k then (s.writeKey k pressed).resume x k else s.writeKey k pressed
  | _ => s.writeKey k pressed

/-- `set_key(k, pressed)` (R242): an index above 15 is rejected, and the state is unchanged. -/
def hostSetKey (k : Nat) (pressed : Bool) (s : State) : Except HostFailure State :=
  if h : k < 16 then .ok (s.setKey ⟨k, h⟩ pressed) else .error (.keyIndexOutOfRange k)

/-- `request_stop()` (R243): the first halt reason is kept. -/
def State.requestStop (s : State) : State :=
  match s.run with
  | .halted _ => s
  | _ => s.halt .stopped

/-- A scheduled host operation; a rejected one changes nothing. -/
def State.applyOp (s : State) : HostOp → State
  | .tick => s.tick
  | .setKey k pressed =>
    match hostSetKey k pressed s with
    | .ok t => t
    | .error _ => s
  | .requestStop => s.requestStop

/-- Scheduled host operations, in order. -/
def State.applyOps (s : State) : List HostOp → State
  | [] => s
  | op :: ops => (s.applyOp op).applyOps ops

/-- The instruction boundary: what the host scheduled for it is applied, and leaves the schedule. -/
def State.boundary (s : State) : State :=
  match s.host with
  | [] => s
  | ops :: rest => State.applyOps { s with host := rest } ops

/-- Run-state readout (R245). -/
def State.runReadout (s : State) : RunState := s.run

/-- Tone output (R246): `tone = (ST > 0)`. -/
def State.tone (s : State) : Bool := decide (s.ST.toNat > 0)

/-- Display snapshot (R247): bit `r * 64 + c` of the 2048 bits is `fb[r][c]`. -/
def State.snapshot (s : State) : BitVec 2048 :=
  BitVec.ofFnLE fun i => s.fb.pixel ⟨i.val / 64, by omega⟩ ⟨i.val % 64, by omega⟩

end Sys2Proof.Machine
end

