-- ==== Sys2Proof/Machine/Alu.lean ====
section
/-!
DEFINITION. Machine/Alu.lean: the register and ALU instructions (42_alu.md R120 to R133).  All sources are read before
anything is written; an instruction with a flag writes VF first and V[x] second (R120, log entry 14).
-/

namespace Sys2Proof.Machine

/-- A result written to V[x], no flag. -/
def State.writeResult (s : State) (x : Reg) (v : Byte) : Result := .next (s.setReg x v).advance

/-- A flag and a result (R120). -/
def State.writeFlagged (s : State) (x : Reg) (flag v : Byte) : Result := .next (s.setFlagged x flag v).advance

/-- 6xkk (R121). -/
def execLdVkk (x : Reg) (kk : Byte) (s : State) : Result := s.writeResult x kk

/-- 7xkk (R122): no flag. -/
def execAddVkk (x : Reg) (kk : Byte) (s : State) : Result := s.writeResult x (s.reg x + kk)

/-- 8xy0 (R123). -/
def execLdVV (x y : Reg) (s : State) : Result := s.writeResult x (s.reg y)

/-- 8xy1 (R124): VF is not reset. -/
def execOrVV (x y : Reg) (s : State) : Result := s.writeResult x (s.reg x ||| s.reg y)

/-- 8xy2 (R125). -/
def execAndVV (x y : Reg) (s : State) : Result := s.writeResult x (s.reg x &&& s.reg y)

/-- 8xy3 (R126). -/
def execXorVV (x y : Reg) (s : State) : Result := s.writeResult x (s.reg x ^^^ s.reg y)

/-- 8xy4 (R127). -/
def execAddVV (x y : Reg) (s : State) : Result :=
  s.writeFlagged x (carryFlag (s.reg x) (s.reg y)) (s.reg x + s.reg y)

/-- 8xy5 (R128). -/
def execSubVV (x y : Reg) (s : State) : Result :=
  s.writeFlagged x (noBorrowFlag (s.reg x) (s.reg y)) (s.reg x - s.reg y)

/-- 8xy6 (R129): shifts V[x], never V[y]. -/
def execShrV (x : Reg) (s : State) : Result := s.writeFlagged x (shiftedOutRight (s.reg x)) (s.reg x >>> 1)

/-- 8xy7 (R130). -/
def execSubnVV (x y : Reg) (s : State) : Result :=
  s.writeFlagged x (noBorrowFlag (s.reg y) (s.reg x)) (s.reg y - s.reg x)

/-- 8xyE (R131): shifts V[x], never V[y]. -/
def execShlV (x : Reg) (s : State) : Result := s.writeFlagged x (shiftedOutLeft (s.reg x)) (s.reg x <<< 1)

/-- Cxkk (R132): the drawn byte is free. -/
def execRnd (x : Reg) (kk : Byte) (s : State) : Result := s.draw.2.writeResult x (s.draw.1 &&& kk)

end Sys2Proof.Machine
end

