-- ==== Sys2Proof/Machine/ControlFlow.lean ====
section
/-!
DEFINITION. Machine/ControlFlow.lean: return, jump, call, the register and immediate skips, jump plus V0
(41_control_flow.md R100 to R107).  None of them writes VF or memory.
-/

namespace Sys2Proof.Machine

/-- 00EE (R100): pc becomes the popped value exactly; it is not advanced (R109). -/
def execRet (s : State) : Result :=
  match s.pop with
  | .error reason => raise reason s
  | .ok (target, t) => .next (t.jump target)

/-- 1nnn (R101). -/
def execJp (nnn : Addr12) (s : State) : Result := .next (s.jump (zext16 nnn))

/-- 2nnn (R102): pushes pc as it stands, the call instruction's own address. -/
def execCall (nnn : Addr12) (s : State) : Result :=
  match s.push s.pc with
  | .error reason => raise reason s
  | .ok t => .next (t.jump (zext16 nnn))

/-- 3xkk (R103). -/
def execSeVkk (x : Reg) (kk : Byte) (s : State) : Result := .next (s.skipIf (s.reg x == kk))

/-- 4xkk (R104). -/
def execSneVkk (x : Reg) (kk : Byte) (s : State) : Result := .next (s.skipIf (s.reg x != kk))

/-- 5xy0 (R105). -/
def execSeVV (x y : Reg) (s : State) : Result := .next (s.skipIf (s.reg x == s.reg y))

/-- 9xy0 (R106). -/
def execSneVV (x y : Reg) (s : State) : Result := .next (s.skipIf (s.reg x != s.reg y))

/-- Bnnn (R107): the register added is always V0. -/
def execJpV0 (nnn : Addr12) (s : State) : Result := .next (s.jump ((s.reg 0).setWidth 16 + zext16 nnn))

end Sys2Proof.Machine
end

