-- ==== Sys2Proof/Machine/IndexMemory.lean ====
section
/-!
DEFINITION. Machine/IndexMemory.lean: setting I and the memory transfers (43_index_and_memory.md R150 to R156).  No
access changes I; a failing window check leaves everything but `run`.
-/

namespace Sys2Proof.Machine

/-- Annn (R150). -/
def execLdI (nnn : Addr12) (s : State) : Result := .next (s.setI (zext16 nnn)).advance

/-- Fx1E (R151): wraps at 16 bits, no flag. -/
def execAddIV (x : Reg) (s : State) : Result := .next (s.setI (s.I + (s.reg x).setWidth 16)).advance

/-- Fx29 (R152, 90_conflicts.md C4). -/
def execLdFV (x : Reg) (s : State) : Result := .next (s.setI (glyphAddr (s.reg x))).advance

/-- Fx33 (R153). -/
def execLdBV (x : Reg) (s : State) : Result :=
  guarded (checkWrite s.params.storeLo s.I 3) (s.store (bcdDigits (s.reg x))).advance s

/-- Fx55 (R154). -/
def execLdMiV (x : Reg) (s : State) : Result :=
  guarded (checkWrite s.params.storeLo s.I (x.val + 1)) (s.store (s.regBlock x)).advance s

/-- Fx65 (R155). -/
def execLdVMi (x : Reg) (s : State) : Result := guarded (checkRead s.I (x.val + 1)) (s.loadRegs x).advance s

end Sys2Proof.Machine
end

