-- ==== Sys2Proof/Machine/KeysTimers.lean ====
section
/-!
DEFINITION. Machine/KeysTimers.lean: the key skips, the wait for a key and the timer instructions
(45_keys_and_timers.md R190 to R196).
-/

namespace Sys2Proof.Machine

/-- The key skips (R191, R192) under the machine's policy: skip if key V[x] is in the wanted state. -/
def State.skipOnKey (s : State) (x : Reg) (wanted : Bool) : Result :=
  match keyIndex s.params.keyIndexPolicy (s.reg x) with
  | .error reason => raise reason s
  | .ok k => .next (s.skipIf (s.keys.get k == wanted))

/-- Ex9E (R191). -/
def execSkp (x : Reg) (s : State) : Result := s.skipOnKey x true

/-- ExA1 (R192). -/
def execSknp (x : Reg) (s : State) : Result := s.skipOnKey x false

/-- Fx07 (R193). -/
def execLdVDt (x : Reg) (s : State) : Result := .next (s.setReg x s.DT).advance

/-- Fx0A (R194): the instruction step only suspends; pc advances on resume. -/
def execLdVKey (x : Reg) (s : State) : Result := .next (s.suspend x)

/-- Fx15 (R195). -/
def execLdDtV (x : Reg) (s : State) : Result := .next (s.setDT (s.reg x)).advance

/-- Fx18 (R196). -/
def execLdStV (x : Reg) (s : State) : Result := .next (s.setST (s.reg x)).advance

end Sys2Proof.Machine
end

