-- ==== Sys2Proof/Machine/InstructionStep.lean ====
section
/-!
DEFINITION. Machine/InstructionStep.lean: the host's `step()` and `step_n(k)` (60_exceptions.md R244), one instruction
step (30_encoding.md R70) when `run = Running` and nothing otherwise.
-/

namespace Sys2Proof.Machine

/-- `step()` (R244, R70): fetch, decode, execute; a failing fetch or decode raises. -/
def State.instructionStep (s : State) : Result :=
  match s.run with
  | .running =>
    match s.fetchDecode with
    | .ok i => exec i s
    | .error reason => raise reason s
  | .awaitingKey _ => .next s
  | .halted _ => .next s

/-- `step_n(k)` (R244): `step()` k times. -/
def State.stepN (s : State) : Nat → Result
  | 0 => .next s
  | k + 1 =>
    match s.instructionStep with
    | .next t => t.stepN k
    | .fault r => .fault r
    | .refused r => .refused r

/-- The address at which a host loader places the word that the next step runs: pc, where a fetch at pc is legal, else
the lowest address of the executable region, 0x200 by default (log entry 8). -/
def State.placeAt (s : State) : Word :=
  if fetchable s.params.fetchLo s.params.fetchHi s.pc then s.pc else BitVec.ofNat 16 s.params.fetchLo

/-- The word `w` placed at `placeAt`, in the fetch's byte order. -/
def State.placeWord (s : State) (w : Word) : State :=
  (s.writeBytes s.placeAt.toNat [hiByte w, loByte w]).jump s.placeAt

/-- The schedule with a boundary at which the host does nothing put first. -/
def quietBoundary : List (List HostOp) → List (List HostOp)
  | [] => []
  | ops :: rest => [] :: ops :: rest

end Sys2Proof.Machine
end

