-- ==== Sys2Proof/Machine/Step.lean ====
section
/-!
DEFINITION. Machine/Step.lean: one step of the machine: the instruction boundary, at which the host's scheduled
operations are applied (60_exceptions.md R226), then one instruction step (R244).
-/

namespace Sys2Proof.Machine

/-- The step of the machine. -/
def step (s : State) : Host.Outcome State Fault Refusal := s.boundary.instructionStep

/-- `s` with a table word stored where the next step fetches, the core running and the host quiet at the next boundary,
so that the very next step runs exactly that word (log entry 8). -/
def State.withFetchWord (s : State) (nbits w : Nat) : State :=
  { s.placeWord (tableWord nbits w) with run := .running, host := quietBoundary s.host }

end Sys2Proof.Machine
end

