-- ==== Sys2Proof/Safety.lean ====
section
/-!
DEFINITION. Safety.lean: the terms in which claims speak: what a part of the state is and when it is unchanged, the
spec's tables of what each instruction writes and can raise, the pixels a sprite covers, the end of a run, and the
invariant every step keeps.
-/

namespace Sys2Proof.Machine

/-! ## Frames -/

/-- The parts of the state (10_state.md R20) and the model's own three fields. -/
inductive Part where
  | V | I | pc | stack | sp | DT | ST | keys | fb | mem | run | draws | host | params
  deriving DecidableEq, Repr

/-- The part reads the same after as before: arrays entry by entry, memory byte by byte. -/
def Part.Same : Part → State → State → Prop
  | .V, s, t => ∀ r : Reg, t.reg r = s.reg r
  | .I, s, t => t.I = s.I
  | .pc, s, t => t.pc = s.pc
  | .stack, s, t => ∀ j : Fin 16, t.stack.get j = s.stack.get j
  | .sp, s, t => t.sp = s.sp
  | .DT, s, t => t.DT = s.DT
  | .ST, s, t => t.ST = s.ST
  | .keys, s, t => ∀ k : Fin 16, t.keys.get k = s.keys.get k
  | .fb, s, t => ∀ r c, t.fb.pixel r c = s.fb.pixel r c
  | .mem, s, t => ∀ a : Nat, t.read a = s.read a
  | .run, s, t => t.run = s.run
  | .draws, s, t => t.draws = s.draws
  | .host, s, t => t.host = s.host
  | .params, s, t => t.params = s.params

/-- Every part but the listed ones is unchanged. -/
def ChangesOnly (parts : List Part) (s t : State) : Prop := ∀ p : Part, p ∉ parts → p.Same s t

/-- Every general register but the listed ones is unchanged. -/
def WritesOnlyRegs (regs : List Reg) (s t : State) : Prop := ∀ r : Reg, r ∉ regs → t.reg r = s.reg r

end Sys2Proof.Machine

namespace Sys2Proof

open Machine

/-! ## What each instruction writes and raises -/

/-- The parts an instruction may write (10_state.md R23, R25, R29 to R37; `run` where R221 lets it raise, and for the
suspension of Fx0A). -/
def Instr.writesParts : Instr → List Part
  | .cls => [.fb, .pc]
  | .ret => [.pc, .sp, .run]
  | .jp _ => [.pc]
  | .call _ => [.pc, .stack, .sp, .run]
  | .seVkk _ _ => [.pc]
  | .sneVkk _ _ => [.pc]
  | .seVV _ _ => [.pc]
  | .ldVkk _ _ => [.V, .pc]
  | .addVkk _ _ => [.V, .pc]
  | .ldVV _ _ => [.V, .pc]
  | .orVV _ _ => [.V, .pc]
  | .andVV _ _ => [.V, .pc]
  | .xorVV _ _ => [.V, .pc]
  | .addVV _ _ => [.V, .pc]
  | .subVV _ _ => [.V, .pc]
  | .shrV _ => [.V, .pc]
  | .subnVV _ _ => [.V, .pc]
  | .shlV _ => [.V, .pc]
  | .sneVV _ _ => [.pc]
  | .ldI _ => [.I, .pc]
  | .jpV0 _ => [.pc]
  | .rnd _ _ => [.V, .pc, .draws]
  | .drw _ _ _ => [.V, .fb, .pc, .run]
  | .skp _ => [.pc, .run]
  | .sknp _ => [.pc, .run]
  | .ldVDt _ => [.V, .pc]
  | .ldVKey _ => [.run]
  | .ldDtV _ => [.DT, .pc]
  | .ldStV _ => [.ST, .pc]
  | .addIV _ => [.I, .pc]
  | .ldFV _ => [.I, .pc]
  | .ldBV _ => [.mem, .pc, .run]
  | .ldMiV _ => [.mem, .pc, .run]
  | .ldVMi _ => [.V, .pc, .run]

/-- The "writes" column of 10_state.md R23 (Fx0A writes V[x] on resume, not in its own step). -/
def Instr.writesRegs : Instr → List Reg
  | .cls => []
  | .ret => []
  | .jp _ => []
  | .call _ => []
  | .seVkk _ _ => []
  | .sneVkk _ _ => []
  | .seVV _ _ => []
  | .ldVkk x _ => [x]
  | .addVkk x _ => [x]
  | .ldVV x _ => [x]
  | .orVV x _ => [x]
  | .andVV x _ => [x]
  | .xorVV x _ => [x]
  | .addVV x _ => [VF, x]
  | .subVV x _ => [VF, x]
  | .shrV x => [VF, x]
  | .subnVV x _ => [VF, x]
  | .shlV x => [VF, x]
  | .sneVV _ _ => []
  | .ldI _ => []
  | .jpV0 _ => []
  | .rnd x _ => [x]
  | .drw _ _ _ => [VF]
  | .skp _ => []
  | .sknp _ => []
  | .ldVDt x => [x]
  | .ldVKey _ => []
  | .ldDtV _ => []
  | .ldStV _ => []
  | .addIV _ => []
  | .ldFV _ => []
  | .ldBV _ => []
  | .ldMiV _ => []
  | .ldVMi x => (List.finRange 16).filter (· ≤ x)

/-- The table of 60_exceptions.md R221, after decode. -/
def Instr.mayRaise : Instr → HaltReason → Prop
  | .ret, .stackUnderflow => True
  | .call _, .stackOverflow => True
  | .drw _ _ n, .invalidAddress _ => n > 0
  | .ldBV _, .invalidAddress _ => True
  | .ldMiV _, .invalidAddress _ => True
  | .ldVMi _, .invalidAddress _ => True
  | .skp _, .keyIndexOutOfRange _ => True
  | .sknp _, .keyIndexOutOfRange _ => True
  | _, _ => False

end Sys2Proof

namespace Sys2Proof.Machine

/-! ## Display -/

/-- Some set bit of the `n`-row sprite at I lands on pixel (r, c), by 44_display.md R172 and R174: bit 7 - k of row j
at row (cy + j) mod 32, column (cx + k) mod 64. -/
def State.SpriteCovers (s : State) (x y : Reg) (n : Nat) (r : Fin 32) (c : Fin 64) : Prop :=
  ∃ j k : Nat, j < n ∧ k < 8 ∧ r.val = ((s.reg y).toNat % 32 + j) % 32 ∧ c.val = ((s.reg x).toNat % 64 + k) % 64 ∧
    (s.read (s.I.toNat + j)).getLsbD (7 - k) = true

/-! ## The run -/

/-- The word an address and its successor hold, the lower address high (20_memory.md R54). -/
def State.wordAt (s : State) (a : Nat) : Word := wordOfBytes (s.read a) (s.read (a + 1))

/-- The core has halted. -/
def State.isHalted (s : State) : Prop := ∃ r, s.run = .halted r

/-- The core has halted by a failure: a safe run never reaches such a state. -/
def State.failed (s : State) : Prop := ∃ r, s.run = .halted r ∧ r ≠ .stopped

/-- The idle loop (70_reset_and_hazards.md R268 (b)): Running, and the word at pc is `1nnn` with nnn = pc. -/
def State.idle (s : State) : Prop :=
  s.run = .running ∧ ∃ nnn, s.fetchDecode = .ok (.jp nnn) ∧ zext16 nnn = s.pc

/-- The end of a run (R268). -/
def State.ended (s : State) : Prop := s.isHalted ∨ s.idle

/-- What every step keeps, whatever the host does between steps: admissible parameters; memory in its canonical form; pc within the bound of
10_state.md R27; every stack entry the address of a call that was fetched; a suspended Fx0A at a fetched address. -/
structure State.Inv (s : State) : Prop where
  params_wf : s.params.wf = true
  mem_wf : s.mem.wf s.params.font = true
  pc_le : s.pc.toNat ≤ 0x10FE
  stack_le : ∀ j : Fin 16, (s.stack.get j).toNat ≤ 0xFFE
  waiting_le : ∀ x, s.run = .awaitingKey x → s.pc.toNat ≤ 0xFFE

/-- The reserved region 0x000 to 0x1FF, the font in it, reads as after reset (10_state.md R45). -/
def State.ReservedIntact (s : State) : Prop := ∀ a, a < 0x200 → s.read a = Memory.unlisted s.params.font a

/-- Two states that differ at most in their stale stack entries, those at and above sp (10_state.md R32). -/
structure State.SameButStale (s t : State) : Prop where
  rest : t = { s with stack := t.stack }
  valid : ∀ j : Fin 16, j.val < s.sp.val → t.stack.get j = s.stack.get j

end Sys2Proof.Machine
end

