-- ==== Sys2Proof/Certificates/Slice0/Obligations.lean ====
section
/-!
DEFINITION. Certificates/Slice0/Obligations.lean: the statements for the provers, from the numbered rules of spec/.
Each speaks of every state; a statement about an instruction's result has as its conclusion that `exec` answers the
next state the rule gives, and the frame beside it.
-/

open Sys2Proof Sys2Proof.Machine

/-! ## Encoding and decoding (30_encoding.md) -/

/-- R73, R74, R76: encoding then decoding gives back every well-formed instruction, as a word and as bytes followed by
any others. -/
def Obligations.DecodeOfEncodeIsTheInstruction : Prop :=
  ∀ (i : Instr) (rest : List Byte), i.wf = true →
    decode (encode i) = .ok i ∧ decodeBytes (encodeBytes i ++ rest) = .ok (i, rest)

/-- R76, R77: what decodes is well-formed, and its word belongs to the instruction's row of the opcode table and to no
other row. -/
def Obligations.DecodedWordLiesInItsOwnRowOnly : Prop :=
  ∀ (w : Word) (i : Instr), decode w = .ok i →
    i.wf = true ∧ ∃ row ∈ opcodeRows, row.mnemonic = i.mnemonic ∧ w &&& row.mask = row.pattern ∧
      ∀ other ∈ opcodeRows, w &&& other.mask = other.pattern → other = row

/-- R77: the illegal words are exactly the listed ones, by the fields of R73, and executing one raises
InvalidInstruction with the word and changes nothing else. -/
def Obligations.IllegalWordsAreExactlyTheListedOnes : Prop :=
  (∀ w : Word, decode w = .error (.invalidInstruction w) ↔
    (w.toNat / 0x1000 = 0x0 ∧ w.toNat % 0x1000 ≠ 0x0E0 ∧ w.toNat % 0x1000 ≠ 0x0EE) ∨
    (w.toNat / 0x1000 = 0x8 ∧ w.toNat % 0x10 ∈ [0x8, 0x9, 0xA, 0xB, 0xC, 0xD, 0xF]) ∨
    (w.toNat / 0x1000 = 0xE ∧ w.toNat % 0x100 ∉ [0x9E, 0xA1]) ∨
    (w.toNat / 0x1000 = 0xF ∧ w.toNat % 0x100 ∉ [0x07, 0x0A, 0x15, 0x18, 0x1E, 0x29, 0x33, 0x55, 0x65])) ∧
  ∀ (s : State) (w : Word), s.run = .running → s.fetch = .ok w → decode w = .error (.invalidInstruction w) →
    s.instructionStep = .next { s with run := .halted (.invalidInstruction w) }

/-- R79: every word decodes to an instruction or is illegal, and the ignored bits are ignored: 5xyn and 9xyn execute as
5xy0 and 9xy0 for every n, 8xy6 and 8xyE ignore y. -/
def Obligations.IgnoredBitsAreIgnoredAndNothingIsReserved : Prop :=
  (∀ w : Word, (∃ i, decode w = .ok i) ∨ decode w = .error (.invalidInstruction w)) ∧
  ∀ (x y : Reg) (n : BitVec 4),
    decode (0x5#4 ++ BitVec.ofNat 4 x.val ++ BitVec.ofNat 4 y.val ++ n) = .ok (.seVV x y) ∧
    decode (0x9#4 ++ BitVec.ofNat 4 x.val ++ BitVec.ofNat 4 y.val ++ n) = .ok (.sneVV x y) ∧
    decode (0x8#4 ++ BitVec.ofNat 4 x.val ++ BitVec.ofNat 4 y.val ++ 0x6#4) = .ok (.shrV x) ∧
    decode (0x8#4 ++ BitVec.ofNat 4 x.val ++ BitVec.ofNat 4 y.val ++ 0xE#4) = .ok (.shlV x)

/-- R76 on written-out words, at least one of each of the 16 families that the high 4 bits select (00_scope.md R17),
illegal ones among them (sanity). -/
def Obligations.WrittenOutWordsDecodeAsTheTableSays : Prop :=
  decode 0b0000000011100000#16 = .ok .cls ∧ decode 0b0000000011101110#16 = .ok .ret ∧
  decode 0b0001001000001000#16 = .ok (.jp 0x208) ∧ decode 0b0010001100000000#16 = .ok (.call 0x300) ∧
  decode 0b0011001100000101#16 = .ok (.seVkk 3 5) ∧ decode 0b0100001110000101#16 = .ok (.sneVkk 3 0x85) ∧
  decode 0b0101000100100000#16 = .ok (.seVV 1 2) ∧
  decode 0b0110101001000010#16 = .ok (.ldVkk 10 0x42) ∧ decode 0b0111001100001010#16 = .ok (.addVkk 3 0x0A) ∧
  decode 0b1000000100100100#16 = .ok (.addVV 1 2) ∧ decode 0b1001000100100001#16 = .ok (.sneVV 1 2) ∧
  decode 0b1010001100000000#16 = .ok (.ldI 0x300) ∧ decode 0b1011111111111111#16 = .ok (.jpV0 0xFFF) ∧
  decode 0b1100000100001111#16 = .ok (.rnd 1 0x0F) ∧
  decode 0b1101000100101111#16 = .ok (.drw 1 2 15) ∧ decode 0b1110001010011110#16 = .ok (.skp 2) ∧
  decode 0b1111001001100101#16 = .ok (.ldVMi 2) ∧
  decode 0xFFFF#16 = .error (.invalidInstruction 0xFFFF) ∧ decode 0x0123#16 = .error (.invalidInstruction 0x0123) ∧
  decode 0x8008#16 = .error (.invalidInstruction 0x8008) ∧ decode 0xE000#16 = .error (.invalidInstruction 0xE000)

/-! ## The step -/

/-- R70: when the bytes at pc, inside the executable region, decode to `i`, the running core's instruction step is
`exec i`; and a step of the machine is that instruction step after the operations the host scheduled for the boundary
(the schedule is the model's own field, log entry 7): none scheduled, the step is the instruction step; the soonest
entry `ops`, the step is the instruction step of the state in which `ops` have been applied and have left the
schedule. -/
def Obligations.StepRunsTheDecodedInstruction : Prop :=
  (∀ (s : State) (i : Instr), s.run = .running → s.params.fetchLo ≤ s.pc.toNat → s.pc.toNat + 1 ≤ s.params.fetchHi →
    decode (s.wordAt s.pc.toNat) = .ok i → s.instructionStep = exec i s) ∧
  (∀ s : State, s.host = [] → step s = s.instructionStep) ∧
  (∀ (s : State) (ops : List HostOp) (rest : List (List HostOp)), s.host = ops :: rest →
    step s = (State.applyOps { s with host := rest } ops).instructionStep)

/-- A placed word runs next (the model's own loader, log entry 8): from every state with an executable region that lies
in memory and holds a word, the step after `withFetchWord` of a word that decodes to `i` is `exec i` at the state with
that word at pc, high byte first, and nothing else changed; pc is kept where a fetch at it is legal. -/
def Obligations.PlacedWordRunsNext : Prop :=
  ∀ (s : State) (w : Word) (i : Instr), decode w = .ok i →
    s.params.wf = true → s.params.fetchLo + 1 ≤ s.params.fetchHi →
    ∃ t, step (s.withFetchWord 16 w.toNat) = exec i t ∧ t.run = .running ∧
      (s.params.fetchLo ≤ s.pc.toNat ∧ s.pc.toNat + 1 ≤ s.params.fetchHi → t.pc = s.pc) ∧
      t.wordAt t.pc.toNat = w ∧
      (∀ a, a < t.pc.toNat ∨ t.pc.toNat + 1 < a → t.read a = s.read a) ∧
      ChangesOnly [.pc, .mem, .run] s t

/-- R71: a fetch is legal iff `FETCH_LO <= pc` and `pc + 1 <= FETCH_HI`, and then gives the big-endian word; an illegal
one makes the running core's step raise InvalidAddress(pc), changing only `run`. -/
def Obligations.FetchReadsTheBigEndianWordOrHalts : Prop :=
  ∀ s : State,
    (s.params.fetchLo ≤ s.pc.toNat ∧ s.pc.toNat + 1 ≤ s.params.fetchHi →
      ∃ w, s.fetch = .ok w ∧
        w.toNat = (s.read s.pc.toNat).toNat * 256 + (s.read (s.pc.toNat + 1)).toNat) ∧
    (¬ (s.params.fetchLo ≤ s.pc.toNat ∧ s.pc.toNat + 1 ≤ s.params.fetchHi) → s.run = .running →
      s.instructionStep = .next { s with run := .halted (.invalidAddress s.pc.toNat) })

/-- R244: `step()` does nothing unless the core is running, and `step_n(k)` is `step()` k times, so it stops doing
anything once `run` leaves Running. -/
def Obligations.StepNStopsWhenTheCoreStops : Prop :=
  (∀ s : State, s.run ≠ .running → s.instructionStep = .next s ∧ ∀ k, s.stepN k = .next s) ∧
  (∀ s : State, s.stepN 1 = s.instructionStep) ∧
  ∀ (j k : Nat) (s t : State), s.stepN j = .next t → s.stepN (j + k) = t.stepN k

/-- R222, R224, R244: a step never stops outside the state: it always answers a next state. -/
def Obligations.StepAlwaysAnswersANextState : Prop :=
  ∀ s : State, ∃ t, step s = .next t

/-- R222: when a step raises a failure, its only effect is `run <- Halted(E)`; pc, registers, memory, stack, timers,
keys and pixels are the state's before. -/
def Obligations.FailingStepChangesOnlyRun : Prop :=
  ∀ (s t : State) (r : HaltReason), s.run = .running → s.instructionStep = .next t → t.run = .halted r →
    t = { s with run := .halted r }

/-- R221: after decode an instruction raises only what its row of the table lists; none raises two different
failures. -/
def Obligations.InstructionsRaiseOnlyTheirFailure : Prop :=
  ∀ (i : Instr) (s t : State) (r : HaltReason), s.run = .running → exec i s = .next t → t.run = .halted r →
    i.mayRaise r

/-- R225: a halted core stays halted with the same reason; only the host's operations touch it, and they reach only the
timers and the keys. -/
def Obligations.HaltedIsTerminal : Prop :=
  ∀ (s : State) (r : HaltReason), s.run = .halted r →
    ∃ t, step s = .next t ∧ t.run = .halted r ∧ ChangesOnly [.DT, .ST, .keys, .host] s t

/-! ## Frames over all instructions -/

/-- 10_state.md R23, R25, R29 to R37: each instruction changes only the parts its rule names; every byte of memory is
unchanged but for Fx33 and Fx55, the framebuffer but for 00E0 and Dxyn, the stack but for 2nnn and 00EE. -/
def Obligations.InstructionsChangeOnlyTheirParts : Prop :=
  ∀ (i : Instr) (s t : State), exec i s = .next t → ChangesOnly i.writesParts s t

/-- R22, R23, R28: each instruction writes only the registers of its row; VF among them only as a flag of 8xy4 to 8xy7,
8xyE and Dxyn or as the named destination. -/
def Obligations.InstructionsWriteOnlyTheirRegisters : Prop :=
  ∀ (i : Instr) (s t : State), exec i s = .next t → WritesOnlyRegs i.writesRegs s t

/-- R34, R37: no instruction, Dxyn among them, reads ST: with another ST it does the same to everything else, and that
other ST stays unless the instruction is Fx18.  None but Dxyn reads the framebuffer: with another one it does the same
to everything else, and that other one stays unless the instruction is 00E0. -/
def Obligations.ScreenAndSoundTimerAreNotReadByOthers : Prop :=
  (∀ (i : Instr) (s t : State) (st : Byte), exec i s = .next t →
    ∃ u, exec i { s with ST := st } = .next u ∧ ChangesOnly [.ST] t u ∧
      ((∃ x, i = .ldStV x) → u.ST = t.ST) ∧ ((∀ x, i ≠ .ldStV x) → u.ST = st)) ∧
  (∀ (i : Instr) (s t : State) (fb : Framebuffer), (∀ x y n, i ≠ .drw x y n) → exec i s = .next t →
    ∃ u, exec i { s with fb := fb } = .next u ∧ ChangesOnly [.fb] t u ∧
      (i = .cls → u.fb = t.fb) ∧ (i ≠ .cls → u.fb = fb))

/-- R32: no run can observe a stale stack entry: two states that differ only in stale entries take steps to states
that differ only in stale entries. -/
def Obligations.StaleStackEntriesAreUnobservable : Prop :=
  ∀ s t s' : State, s.SameButStale t → step s = .next s' → ∃ t', step t = .next t' ∧ s'.SameButStale t'

/-! ## Control flow (41_control_flow.md) -/

/-- R100: 00EE pops the top entry into pc exactly, keeping the entry (R32), or raises StackUnderflow at sp = 0. -/
def Obligations.RetPopsTheTopEntryIntoPc : Prop :=
  ∀ s : State,
    (s.sp.val = 0 → exec .ret s = .next { s with run := .halted .stackUnderflow }) ∧
    ∀ j : Fin 16, s.sp.val = j.val + 1 →
      ∃ t, exec .ret s = .next t ∧ t.pc = s.stack.get j ∧ t.sp.val = j.val ∧ ChangesOnly [.pc, .sp] s t

/-- R101: 1nnn sets pc to nnn, zero-extended. -/
def Obligations.JpSetsPc : Prop :=
  ∀ (s : State) (nnn : Addr12),
    ∃ t, exec (.jp nnn) s = .next t ∧ t.pc.toNat = nnn.toNat ∧ ChangesOnly [.pc] s t

/-- R102: 2nnn pushes the call's own address and jumps, or raises StackOverflow at sp = 16. -/
def Obligations.CallPushesItsOwnAddress : Prop :=
  ∀ (s : State) (nnn : Addr12),
    (s.sp.val = 16 → exec (.call nnn) s = .next { s with run := .halted .stackOverflow }) ∧
    ∀ j : Fin 16, s.sp.val = j.val →
      ∃ t, exec (.call nnn) s = .next t ∧ t.pc.toNat = nnn.toNat ∧ t.sp.val = j.val + 1 ∧
        t.stack.get j = s.pc ∧ (∀ k : Fin 16, k ≠ j → t.stack.get k = s.stack.get k) ∧
        ChangesOnly [.pc, .sp, .stack] s t

/-- R103, R104: 3xkk and 4xkk. -/
def Obligations.ImmediateSkipsCompareVxWithKk : Prop :=
  ∀ (s : State) (x : Reg) (kk : Byte),
    (∃ t, exec (.seVkk x kk) s = .next t ∧ t.pc = (if s.reg x = kk then s.pc + 4 else s.pc + 2) ∧
      ChangesOnly [.pc] s t) ∧
    (∃ t, exec (.sneVkk x kk) s = .next t ∧ t.pc = (if s.reg x ≠ kk then s.pc + 4 else s.pc + 2) ∧
      ChangesOnly [.pc] s t)

/-- R105, R106: 5xy0 and 9xy0. -/
def Obligations.RegisterSkipsCompareVxWithVy : Prop :=
  ∀ (s : State) (x y : Reg),
    (∃ t, exec (.seVV x y) s = .next t ∧ t.pc = (if s.reg x = s.reg y then s.pc + 4 else s.pc + 2) ∧
      ChangesOnly [.pc] s t) ∧
    (∃ t, exec (.sneVV x y) s = .next t ∧ t.pc = (if s.reg x ≠ s.reg y then s.pc + 4 else s.pc + 2) ∧
      ChangesOnly [.pc] s t)

/-- R107: Bnnn adds V0, never another register. -/
def Obligations.JpV0AddsRegisterZero : Prop :=
  ∀ (s : State) (nnn : Addr12),
    ∃ t, exec (.jpV0 nnn) s = .next t ∧ t.pc.toNat = ((s.reg 0).toNat + nnn.toNat) % 2 ^ 16 ∧ ChangesOnly [.pc] s t

/-- R109: 2nnn at address a and then 00EE set pc back to a and sp to its value before the call; nothing else changes but
the entry the call pushed, which stays. -/
def Obligations.CallThenReturnGoesBackToTheCall : Prop :=
  ∀ (s t : State) (nnn : Addr12), s.sp.val < 16 → exec (.call nnn) s = .next t →
    ∃ u, exec .ret t = .next u ∧ u.pc = s.pc ∧ u.sp = s.sp ∧ ChangesOnly [.stack] s u ∧
      ∀ j : Fin 16, j.val ≠ s.sp.val → u.stack.get j = s.stack.get j

/-! ## Registers and ALU (42_alu.md) -/

/-- R121, R122: 6xkk loads kk; 7xkk adds kk modulo 256 with no flag. -/
def Obligations.ImmediateLoadAndAdd : Prop :=
  ∀ (s : State) (x : Reg) (kk : Byte),
    (∃ t, exec (.ldVkk x kk) s = .next t ∧ t.reg x = kk ∧ t.pc = s.pc + 2 ∧
      WritesOnlyRegs [x] s t ∧ ChangesOnly [.V, .pc] s t) ∧
    (∃ t, exec (.addVkk x kk) s = .next t ∧ (t.reg x).toNat = ((s.reg x).toNat + kk.toNat) % 256 ∧
      t.pc = s.pc + 2 ∧ WritesOnlyRegs [x] s t ∧ ChangesOnly [.V, .pc] s t)

/-- R123 to R126: assign, OR, AND, XOR, bit by bit, with no flag. -/
def Obligations.AssignAndBitwiseOperations : Prop :=
  ∀ (s : State) (x y : Reg),
    (∃ t, exec (.ldVV x y) s = .next t ∧ t.reg x = s.reg y ∧ t.pc = s.pc + 2 ∧
      WritesOnlyRegs [x] s t ∧ ChangesOnly [.V, .pc] s t) ∧
    (∃ t, exec (.orVV x y) s = .next t ∧
      (∀ b, (t.reg x).getLsbD b = ((s.reg x).getLsbD b || (s.reg y).getLsbD b)) ∧ t.pc = s.pc + 2 ∧
      WritesOnlyRegs [x] s t ∧ ChangesOnly [.V, .pc] s t) ∧
    (∃ t, exec (.andVV x y) s = .next t ∧
      (∀ b, (t.reg x).getLsbD b = ((s.reg x).getLsbD b && (s.reg y).getLsbD b)) ∧ t.pc = s.pc + 2 ∧
      WritesOnlyRegs [x] s t ∧ ChangesOnly [.V, .pc] s t) ∧
    (∃ t, exec (.xorVV x y) s = .next t ∧
      (∀ b, (t.reg x).getLsbD b = ((s.reg x).getLsbD b ^^ (s.reg y).getLsbD b)) ∧ t.pc = s.pc + 2 ∧
      WritesOnlyRegs [x] s t ∧ ChangesOnly [.V, .pc] s t)

/-- R127, R120: 8xy4; VF is the carry, unless x = 0xF, when VF keeps the result. -/
def Obligations.AddSetsTheCarryFlag : Prop :=
  ∀ (s : State) (x y : Reg),
    ∃ t, exec (.addVV x y) s = .next t ∧
      (t.reg x).toNat = ((s.reg x).toNat + (s.reg y).toNat) % 256 ∧
      (x ≠ VF → (t.reg VF).toNat = if (s.reg x).toNat + (s.reg y).toNat > 255 then 1 else 0) ∧
      t.pc = s.pc + 2 ∧ WritesOnlyRegs [VF, x] s t ∧ ChangesOnly [.V, .pc] s t

/-- R128, R130, R120: 8xy5 and 8xy7; VF is 1 if no borrow occurs, unless x = 0xF, when VF keeps the result. -/
def Obligations.SubtractionsSetTheNoBorrowFlag : Prop :=
  ∀ (s : State) (x y : Reg),
    (∃ t, exec (.subVV x y) s = .next t ∧
      ((t.reg x).toNat : Int) = ((s.reg x).toNat - (s.reg y).toNat : Int) % 256 ∧
      (x ≠ VF → (t.reg VF).toNat = if (s.reg x).toNat ≥ (s.reg y).toNat then 1 else 0) ∧
      t.pc = s.pc + 2 ∧ WritesOnlyRegs [VF, x] s t ∧ ChangesOnly [.V, .pc] s t) ∧
    (∃ t, exec (.subnVV x y) s = .next t ∧
      ((t.reg x).toNat : Int) = ((s.reg y).toNat - (s.reg x).toNat : Int) % 256 ∧
      (x ≠ VF → (t.reg VF).toNat = if (s.reg y).toNat ≥ (s.reg x).toNat then 1 else 0) ∧
      t.pc = s.pc + 2 ∧ WritesOnlyRegs [VF, x] s t ∧ ChangesOnly [.V, .pc] s t)

/-- R129, R131, R120: 8xy6 and 8xyE shift V[x] by one; VF is the bit shifted out, unless x = 0xF, when VF keeps the
result. -/
def Obligations.ShiftsPutTheLostBitInVF : Prop :=
  ∀ (s : State) (x : Reg),
    (∃ t, exec (.shrV x) s = .next t ∧ (t.reg x).toNat = (s.reg x).toNat / 2 ∧
      (x ≠ VF → (t.reg VF).toNat = (s.reg x).toNat % 2) ∧
      t.pc = s.pc + 2 ∧ WritesOnlyRegs [VF, x] s t ∧ ChangesOnly [.V, .pc] s t) ∧
    (∃ t, exec (.shlV x) s = .next t ∧ (t.reg x).toNat = (s.reg x).toNat * 2 % 256 ∧
      (x ≠ VF → (t.reg VF).toNat = (s.reg x).toNat / 128) ∧
      t.pc = s.pc + 2 ∧ WritesOnlyRegs [VF, x] s t ∧ ChangesOnly [.V, .pc] s t)

/-- R132, R15: Cxkk ANDs kk with a byte drawn for this execution, about which nothing is known; every bit outside kk is
0.  The draw counter is the model's own (log entry 6): it advances, so that each execution draws anew, and the statement
holds for every value of it. -/
def Obligations.RandomByteIsMasked : Prop :=
  ∀ (s : State) (x : Reg) (kk : Byte),
    ∃ t, exec (.rnd x kk) s = .next t ∧ t.reg x = Config.drawByte s.draws &&& kk ∧
      (∀ b, kk.getLsbD b = false → (t.reg x).getLsbD b = false) ∧ t.draws = s.draws + 1 ∧
      t.pc = s.pc + 2 ∧ WritesOnlyRegs [x] s t ∧ ChangesOnly [.V, .pc, .draws] s t

/-! ## Index register and memory (20_memory.md, 43_index_and_memory.md) -/

/-- R150, R151, R152: Annn, Fx1E (wrapping at 16 bits, VF untouched) and Fx29. -/
def Obligations.IndexRegisterWrites : Prop :=
  ∀ s : State,
    (∀ nnn : Addr12, ∃ t, exec (.ldI nnn) s = .next t ∧ t.I.toNat = nnn.toNat ∧ t.pc = s.pc + 2 ∧
      ChangesOnly [.I, .pc] s t) ∧
    (∀ x : Reg, ∃ t, exec (.addIV x) s = .next t ∧ t.I.toNat = (s.I.toNat + (s.reg x).toNat) % 2 ^ 16 ∧
      t.pc = s.pc + 2 ∧ ChangesOnly [.I, .pc] s t) ∧
    (∀ x : Reg, ∃ t, exec (.ldFV x) s = .next t ∧ t.I.toNat = 0x050 + 5 * ((s.reg x).toNat % 16) ∧
      t.pc = s.pc + 2 ∧ ChangesOnly [.I, .pc] s t)

/-- R153: Fx33 stores the decimal digits of V[x] at I, I + 1, I + 2, or raises what its write check gives
(`WindowChecksCoverTheWholeRange` says which address that records) before any byte is written. -/
def Obligations.BcdStoresThreeDigits : Prop :=
  ∀ (s : State) (x : Reg),
    (s.params.storeLo ≤ s.I.toNat → s.I.toNat + 2 ≤ 0xFFF →
      ∃ t, exec (.ldBV x) s = .next t ∧
        (t.read (s.dataAddr 0)).toNat = (s.reg x).toNat / 100 ∧
        (t.read (s.dataAddr 1)).toNat = (s.reg x).toNat / 10 % 10 ∧
        (t.read (s.dataAddr 2)).toNat = (s.reg x).toNat % 10 ∧
        (∀ a, a < s.dataAddr 0 ∨ s.dataAddr 2 < a → t.read a = s.read a) ∧
        t.pc = s.pc + 2 ∧ ChangesOnly [.mem, .pc] s t) ∧
    (s.I.toNat < s.params.storeLo ∨ s.I.toNat + 2 > 0xFFF →
      ∃ r, checkWrite s.params.storeLo s.I 3 = some r ∧ exec (.ldBV x) s = .next { s with run := .halted r })

/-- R154: Fx55 stores V0 to V[x] at I upward and leaves I, or raises what its write check gives before any
byte is written. -/
def Obligations.RegisterBlockStore : Prop :=
  ∀ (s : State) (x : Reg),
    (s.params.storeLo ≤ s.I.toNat → s.I.toNat + x.val ≤ 0xFFF →
      ∃ t, exec (.ldMiV x) s = .next t ∧
        (∀ j : Reg, j ≤ x → t.read (s.dataAddr j.val) = s.reg j) ∧
        (∀ a, a < s.dataAddr 0 ∨ s.dataAddr x.val < a → t.read a = s.read a) ∧
        t.pc = s.pc + 2 ∧ ChangesOnly [.mem, .pc] s t) ∧
    (s.I.toNat < s.params.storeLo ∨ s.I.toNat + x.val > 0xFFF →
      ∃ r, checkWrite s.params.storeLo s.I (x.val + 1) = some r ∧
        exec (.ldMiV x) s = .next { s with run := .halted r })

/-- R155: Fx65 loads V0 to V[x] from I upward, any address up to 0xFFF, and leaves the registers above x and I, or
raises what its read check gives before any register is written. -/
def Obligations.RegisterBlockLoad : Prop :=
  ∀ (s : State) (x : Reg),
    (s.I.toNat + x.val ≤ 0xFFF →
      ∃ t, exec (.ldVMi x) s = .next t ∧ (∀ j : Reg, j ≤ x → t.reg j = s.read (s.dataAddr j.val)) ∧
        (∀ j : Reg, x < j → t.reg j = s.reg j) ∧ t.pc = s.pc + 2 ∧ ChangesOnly [.V, .pc] s t) ∧
    (s.I.toNat + x.val > 0xFFF →
      ∃ r, checkRead s.I (x.val + 1) = some r ∧ exec (.ldVMi x) s = .next { s with run := .halted r })

/-- R57: over a range of k ≥ 1 bytes from I a check raises iff some address of the range is outside its window.  A
failing read check records I + k - 1; a failing write check records the least address of the range outside the window
(for I above 0xFFF the model's reading of R57, log entries 10 and 11). -/
def Obligations.WindowChecksCoverTheWholeRange : Prop :=
  ∀ (i : Word) (k lo : Nat), 1 ≤ k →
    (checkRead i k = none ↔ ∀ j, j < k → i.toNat + j ≤ 0xFFF) ∧
    (∀ r, checkRead i k = some r → r = .invalidAddress (i.toNat + k - 1)) ∧
    (checkWrite lo i k = none ↔ ∀ j, j < k → lo ≤ i.toNat + j ∧ i.toNat + j ≤ 0xFFF) ∧
    (∀ r, checkWrite lo i k = some r → ∃ j, j < k ∧ r = .invalidAddress (i.toNat + j) ∧
      (i.toNat + j < lo ∨ 0xFFF < i.toNat + j) ∧ ∀ l, l < j → lo ≤ i.toNat + l ∧ i.toNat + l ≤ 0xFFF)

/-- R54: a store to address a changes exactly the high half of the word fetched at a and the low half of the word
fetched at a - 1. -/
def Obligations.StoreChangesOneHalfOfTheFetchedWord : Prop :=
  ∀ (s : State) (a p : Nat) (v : Byte),
    hiByte ((s.writeBytes a [v]).wordAt p) = (if a = p then v else hiByte (s.wordAt p)) ∧
    loByte ((s.writeBytes a [v]).wordAt p) = (if a = p + 1 then v else loByte (s.wordAt p)) ∧
    (s.wordAt p).toNat = (s.read p).toNat * 256 + (s.read (p + 1)).toNat

/-- R64, R264: what Fx55 stores is what the next fetch of those bytes sees, with nothing in between. -/
def Obligations.StoredInstructionIsFetchedAtOnce : Prop :=
  ∀ (s t : State) (x j : Reg) (p : Word), s.params.storeLo ≤ s.I.toNat → s.I.toNat + x.val ≤ 0xFFF →
    exec (.ldMiV x) s = .next t → j < x → p.toNat = s.dataAddr j.val → s.params.fetchLo ≤ p.toNat →
    p.toNat + 1 ≤ s.params.fetchHi → (t.jump p).fetch = .ok (wordOfBytes (s.reg j) (s.reg (j + 1)))

/-! ## Display (44_display.md) -/

/-- R170: 00E0 clears every pixel. -/
def Obligations.ClsClearsEveryPixel : Prop :=
  ∀ s : State, ∃ t, exec .cls s = .next t ∧ (∀ r c, t.fb.pixel r c = false) ∧ t.pc = s.pc + 2 ∧
    ChangesOnly [.fb, .pc] s t

/-- R171 to R174 and R57: Dxyn flips exactly the pixels that a set bit of the sprite covers, wrapping at the edges, and
VF is 1 iff a covered pixel was lit; with n = 0 it reads nothing and clears VF; with n > 0 and I + n - 1 above 0xFFF it raises
InvalidAddress before any pixel or VF changes.  That bit 7 of a sprite byte is its leftmost pixel is R174's reading of
the font (log entry 13), and that a failing read records I + n - 1 is the model's reading of R57 (log entry 10). -/
def Obligations.DrawFlipsExactlyTheCoveredPixels : Prop :=
  ∀ (s : State) (x y : Reg) (n : Nat), (Instr.drw x y n).wf = true →
    (n = 0 ∨ s.I.toNat + n - 1 ≤ 0xFFF →
      ∃ t, exec (.drw x y n) s = .next t ∧
        (∀ r c, s.SpriteCovers x y n r c → t.fb.pixel r c = !s.fb.pixel r c) ∧
        (∀ r c, ¬ s.SpriteCovers x y n r c → t.fb.pixel r c = s.fb.pixel r c) ∧
        ((∃ r c, s.SpriteCovers x y n r c ∧ s.fb.pixel r c = true) → t.reg VF = 1) ∧
        ((¬ ∃ r c, s.SpriteCovers x y n r c ∧ s.fb.pixel r c = true) → t.reg VF = 0) ∧
        t.pc = s.pc + 2 ∧ WritesOnlyRegs [VF] s t ∧ ChangesOnly [.V, .fb, .pc] s t) ∧
    (0 < n → s.I.toNat + n - 1 > 0xFFF →
      exec (.drw x y n) s = .next { s with run := .halted (.invalidAddress (s.I.toNat + n - 1)) })

/-- R171, R173: drawing the same sprite twice at the same place restores the framebuffer; the second draw turns off what
the first turned on, so its VF is 1 exactly when some covered pixel was unlit before the first.  The second draw is at
the same place when its start is (it can differ only where x or y is 0xF, since the first draw writes VF).  R175's own
words on VF are `SecondDrawOfANonzeroSpriteAlwaysCollides` (log entry 18). -/
def Obligations.DrawingTwiceRestoresTheScreen : Prop :=
  ∀ (s t : State) (x y : Reg) (n : Nat), (Instr.drw x y n).wf = true → n = 0 ∨ s.I.toNat + n - 1 ≤ 0xFFF →
    exec (.drw x y n) s = .next t → (t.reg x).toNat % 64 = (s.reg x).toNat % 64 →
    (t.reg y).toNat % 32 = (s.reg y).toNat % 32 →
    ∃ u, exec (.drw x y n) t = .next u ∧ (∀ r c, u.fb.pixel r c = s.fb.pixel r c) ∧
      ((∃ r c, s.SpriteCovers x y n r c ∧ s.fb.pixel r c = false) → u.reg VF = 1) ∧
      ((¬ ∃ r c, s.SpriteCovers x y n r c ∧ s.fb.pixel r c = false) → u.reg VF = 0)

/-- R175 as it is written: "the second draw sets VF = 1 whenever the sprite has at least one bit set", from any
framebuffer.  EXPECTED TO FAIL: by R171 and R173, where every covered pixel was lit before the first draw, the first
draw turns them all off and the second turns none off, so its VF is 0 (log entry 18). -/
def Obligations.SecondDrawOfANonzeroSpriteAlwaysCollides : Prop :=
  ∀ (s t : State) (x y : Reg) (n : Nat), (Instr.drw x y n).wf = true → s.I.toNat + n - 1 ≤ 0xFFF → x ≠ VF → y ≠ VF →
    (∃ j, j < n ∧ s.read (s.I.toNat + j) ≠ 0) → exec (.drw x y n) s = .next t →
    ∃ u, exec (.drw x y n) t = .next u ∧ (∀ r c, u.fb.pixel r c = s.fb.pixel r c) ∧ u.reg VF = 1

/-- R152 with R44, R171: after Fx29, I holds the address of glyph V[x] & 0xF, and a 5-row sprite there is that glyph of
`FONT` (its bytes are a parameter, log entry 1), while the reserved region is intact. -/
def Obligations.FontAddressSelectsTheGlyph : Prop :=
  ∀ (s : State) (x : Reg) (d : Fin 16), s.ReservedIntact → d.val = (s.reg x).toNat % 16 →
    ∃ t, exec (.ldFV x) s = .next t ∧ t.sprite 5 = (s.params.font.get d).toList

/-! ## Keys and timers (45_keys_and_timers.md) -/

/-- R191, R192: Ex9E and ExA1 with V[x] up to 15, or with any V[x] under the policy `mask`, skip on the state of the key
that V[x]'s low nibble names; with V[x] above 15 under the policy `fault` they raise KeyIndexOutOfRange. -/
def Obligations.KeySkipsReadKeyVx : Prop :=
  ∀ (s : State) (x : Reg),
    (∀ k : Fin 16, (s.reg x).toNat ≤ 15 ∨ s.params.keyIndexPolicy = .mask → (s.reg x).toNat % 16 = k.val →
      (∃ t, exec (.skp x) s = .next t ∧ t.pc = (if s.keys.get k = true then s.pc + 4 else s.pc + 2) ∧
        ChangesOnly [.pc] s t) ∧
      (∃ t, exec (.sknp x) s = .next t ∧ t.pc = (if s.keys.get k = false then s.pc + 4 else s.pc + 2) ∧
        ChangesOnly [.pc] s t)) ∧
    (15 < (s.reg x).toNat → s.params.keyIndexPolicy = .fault →
      exec (.skp x) s = .next { s with run := .halted (.keyIndexOutOfRange (s.reg x)) } ∧
      exec (.sknp x) s = .next { s with run := .halted (.keyIndexOutOfRange (s.reg x)) })

/-- R190: the key index under both policies, and the key skips that use it: with `fault` an index above 15 raises
KeyIndexOutOfRange, with `mask` its low nibble is the key. -/
def Obligations.KeyIndexUnderBothPolicies : Prop :=
  ∀ (p : Config.KeyIndexPolicy) (v : Byte),
    (∀ k : Fin 16, v.toNat = k.val → keyIndex p v = .ok k) ∧
    (15 < v.toNat → p = .fault → keyIndex p v = .error (.keyIndexOutOfRange v)) ∧
    (∀ k : Fin 16, 15 < v.toNat → p = .mask → v.toNat % 16 = k.val → keyIndex p v = .ok k) ∧
    ∀ (s : State) (x : Reg) (wanted : Bool), s.reg x = v → s.params.keyIndexPolicy = p →
      (15 < v.toNat → p = .fault →
        s.skipOnKey x wanted = .next { s with run := .halted (.keyIndexOutOfRange v) }) ∧
      (∀ k : Fin 16, v.toNat ≤ 15 ∨ p = .mask → v.toNat % 16 = k.val →
        ∃ t, s.skipOnKey x wanted = .next t ∧
          t.pc = (if s.keys.get k = wanted then s.pc + 4 else s.pc + 2) ∧ ChangesOnly [.pc] s t)

/-- R193, R195, R196: Fx07 reads DT, Fx15 writes DT, Fx18 writes ST. -/
def Obligations.TimerReadsAndWrites : Prop :=
  ∀ (s : State) (x : Reg),
    (∃ t, exec (.ldVDt x) s = .next t ∧ t.reg x = s.DT ∧ t.pc = s.pc + 2 ∧ WritesOnlyRegs [x] s t ∧
      ChangesOnly [.V, .pc] s t) ∧
    (∃ t, exec (.ldDtV x) s = .next t ∧ t.DT = s.reg x ∧ t.pc = s.pc + 2 ∧ ChangesOnly [.DT, .pc] s t) ∧
    (∃ t, exec (.ldStV x) s = .next t ∧ t.ST = s.reg x ∧ t.pc = s.pc + 2 ∧ ChangesOnly [.ST, .pc] s t)

/-- R194: Fx0A suspends with nothing else changed, and the host's press of a key that was up resumes it: V[x] is the
key's number, pc is advanced, the core runs. -/
def Obligations.WaitForKeySuspendsAndResumes : Prop :=
  ∀ (s : State) (x : Reg),
    exec (.ldVKey x) s = .next { s with run := .awaitingKey x } ∧
    ∀ k : Fin 16, s.run = .awaitingKey x → s.keys.get k = false →
      ∃ t, hostSetKey k.val true s = .ok t ∧ (t.reg x).toNat = k.val ∧ t.pc = s.pc + 2 ∧ t.run = .running ∧
        t.keys.get k = true ∧ (∀ j : Fin 16, j ≠ k → t.keys.get j = s.keys.get j) ∧
        WritesOnlyRegs [x] s t ∧ ChangesOnly [.V, .pc, .run, .keys] s t

/-- R194, R254: while the host only ticks and releases keys, a suspended core stays suspended, and nothing but the
timers, the keys and the host's schedule changes. -/
def Obligations.SuspendedCoreWaitsForAKeyDown : Prop :=
  ∀ (s : State) (x : Reg), s.run = .awaitingKey x →
    (∀ ops ∈ s.host.head?, ∀ op ∈ ops, op = .tick ∨ ∃ k, op = .setKey k false) →
    ∃ t, step s = .next t ∧ t.run = .awaitingKey x ∧ ChangesOnly [.DT, .ST, .keys, .host] s t

/-- R265: DT never rises between the program's own writes: one step leaves DT at most what it was, unless the
instruction it runs is Fx15; and with no tick scheduled for its boundary, DT is unchanged. -/
def Obligations.DelayTimerNeverRisesByItself : Prop :=
  ∀ s t : State, step s = .next t → (∀ x, s.boundary.run = .running → s.boundary.fetchDecode ≠ .ok (.ldDtV x)) →
    t.DT.toNat ≤ s.DT.toNat ∧ ((∀ ops ∈ s.host.head?, HostOp.tick ∉ ops) → t.DT = s.DT)

/-! ## The host (60_exceptions.md) -/

/-- R240: load_rom copies byte i to 0x200 + i and nothing else, or rejects an image above 3584 bytes. -/
def Obligations.LoadRomCopiesOrRejects : Prop :=
  ∀ (bytes : List Byte) (s : State),
    (3584 < bytes.length → loadRom bytes s = .error .romTooLarge) ∧
    (bytes.length ≤ 3584 → ∃ t, loadRom bytes s = .ok t ∧
      (∀ (j : Nat) (h : j < bytes.length), t.read (0x200 + j) = bytes[j]) ∧
      (∀ a, a < 0x200 ∨ 0x200 + bytes.length ≤ a → t.read a = s.read a) ∧ ChangesOnly [.mem] s t)

/-- R241, R246: a tick decrements both timers, clamped at 0, in every run state; the tone is active while ST > 0. -/
def Obligations.TickDecrementsBothTimers : Prop :=
  ∀ s : State, (s.applyOp .tick).DT.toNat = s.DT.toNat - 1 ∧ (s.applyOp .tick).ST.toNat = s.ST.toNat - 1 ∧
    ChangesOnly [.DT, .ST] s (s.applyOp .tick) ∧ (s.tone = true ↔ 0 < s.ST.toNat)

/-- R242: set_key rejects an index above 15, changing nothing; else it sets the key in every run state, and resumes Fx0A
exactly when the core awaits a key and the key goes from released to pressed. -/
def Obligations.SetKeyUpdatesOrRejects : Prop :=
  ∀ (s : State) (k : Nat) (pressed : Bool),
    (15 < k → hostSetKey k pressed s = .error (.keyIndexOutOfRange k) ∧ s.applyOp (.setKey k pressed) = s) ∧
    ∀ j : Fin 16, k = j.val →
      ∃ t, hostSetKey k pressed s = .ok t ∧ s.applyOp (.setKey k pressed) = t ∧ t.keys.get j = pressed ∧
        (∀ l : Fin 16, l ≠ j → t.keys.get l = s.keys.get l) ∧
        (∀ x, s.run = .awaitingKey x → pressed = true → s.keys.get j = false →
          t.run = .running ∧ t.pc = s.pc + 2 ∧ (t.reg x).toNat = k ∧ WritesOnlyRegs [x] s t ∧
          ChangesOnly [.keys, .run, .pc, .V] s t) ∧
        ((∀ x, s.run ≠ .awaitingKey x) ∨ pressed = false ∨ s.keys.get j = true → ChangesOnly [.keys] s t)

/-- R243: a stop halts a running or a suspended core and keeps the first halt reason. -/
def Obligations.StopHaltsUnlessHalted : Prop :=
  ∀ s : State,
    ((s.run = .running ∨ ∃ x, s.run = .awaitingKey x) →
      s.applyOp .requestStop = { s with run := .halted .stopped }) ∧
    (∀ r, s.run = .halted r → s.applyOp .requestStop = s)

/-- R226, R248: whatever else the host has scheduled for the boundary, a stop among it takes effect before the next
fetch, unless the core had halted already, and a running core then changes in nothing but what ticks and keys change;
a core that still runs after the boundary's operations has its fetch window checked first, then the decode, then the
instruction's own check, which is `exec`'s. -/
def Obligations.ChecksAreMadeInOrder : Prop :=
  ∀ s : State,
    (∀ ops rest, s.host = ops :: rest → HostOp.requestStop ∈ ops → (∀ r, s.run ≠ .halted r) →
      ∃ t, step s = .next t ∧ t.run = .halted .stopped ∧ ChangesOnly [.V, .pc, .DT, .ST, .keys, .run, .host] s t ∧
        (s.run = .running → ChangesOnly [.DT, .ST, .keys, .run, .host] s t)) ∧
    (s.boundary.run = .running →
      (¬ (s.params.fetchLo ≤ s.boundary.pc.toNat ∧ s.boundary.pc.toNat + 1 ≤ s.params.fetchHi) →
        step s = .next { s.boundary with run := .halted (.invalidAddress s.boundary.pc.toNat) }) ∧
      (s.params.fetchLo ≤ s.boundary.pc.toNat → s.boundary.pc.toNat + 1 ≤ s.params.fetchHi →
        (∀ e, decode (s.wordAt s.boundary.pc.toNat) = .error e →
          step s = .next { s.boundary with run := .halted (.invalidInstruction (s.wordAt s.boundary.pc.toNat)) }) ∧
        (∀ i, decode (s.wordAt s.boundary.pc.toNat) = .ok i → step s = exec i s.boundary)))

/-- R249, R66: the host never writes memory, I, the stack or the framebuffer, and writes registers and pc only by
resuming a suspended core. -/
def Obligations.HostOperationsReachOnlyTheirParts : Prop :=
  ∀ (ops : List HostOp) (s : State),
    ChangesOnly [.V, .pc, .DT, .ST, .keys, .run] s (s.applyOps ops) ∧
    ((∀ x, s.run ≠ .awaitingKey x) → ChangesOnly [.DT, .ST, .keys, .run] s (s.applyOps ops))

/-- R247: bit r·64 + c of the snapshot is fb[r][c]. -/
def Obligations.SnapshotIsRowMajor : Prop :=
  ∀ (s : State) (r : Fin 32) (c : Fin 64), s.snapshot.getLsbD (r.val * 64 + c.val) = s.fb.pixel r c

/-! ## Reset and whole-machine rules -/

/-- R43, R46, R260: the state after reset, for every value of the parameters (the model's own field, log entry 28); and
`State.reset` is it for the defaults of R9. -/
def Obligations.ResetState : Prop :=
  (∀ (p : Config.Params) (s : State), s = State.resetWith p →
    (∀ x : Reg, s.reg x = 0) ∧ s.I = 0 ∧ s.pc = 0x200 ∧ (∀ j : Fin 16, s.stack.get j = 0) ∧ s.sp.val = 0 ∧
    s.DT = 0 ∧ s.ST = 0 ∧ (∀ k : Fin 16, s.keys.get k = false) ∧ (∀ r c, s.fb.pixel r c = false) ∧
    (∀ (d : Fin 16) (j : Fin 5), s.read (0x050 + 5 * d.val + j.val) = (p.font.get d).get j) ∧
    (∀ a, a < 0x050 ∨ 0x0A0 ≤ a → s.read a = 0) ∧ s.run = .running ∧ s.params = p) ∧
  State.reset = State.resetWith defaultParams ∧ defaultParams.fetchLo = 0x200 ∧ defaultParams.fetchHi = 0xFFF ∧
  defaultParams.storeLo = 0x200 ∧ defaultParams.keyIndexPolicy = .fault ∧ defaultParams.font = font

/-- The invariant of every step, whatever the host does: the parameters stay admissible (log entry 28), memory keeps its
canonical form, pc stays within the bound of R27, every stack entry is the address of a fetched call (the model's own
invariant, derived from R27, R71, R102). -/
def Obligations.EveryStepKeepsTheInvariant : Prop :=
  ∀ s t : State, s.Inv → step s = .next t → t.Inv

/-- The invariant holds after reset of the default machine, and of every machine with admissible parameters (log entry
28), and after any ROM load into that state. -/
def Obligations.InvariantHoldsAtLaunch : Prop :=
  State.reset.Inv ∧ ∀ p : Config.Params, p.wf = true →
    (State.resetWith p).Inv ∧ ∀ (rom : List Byte) (s : State), launch p rom = .ok s → s.Inv

/-- R45, R56: no step changes a byte below `STORE_LO`, so that where the parameters are admissible (log entry 28) the
font is immutable, and with the default 0x200 the whole reserved region is. -/
def Obligations.NoStepWritesTheReservedRegion : Prop :=
  ∀ (s t : State) (a : Nat), step s = .next t →
    (a < s.params.storeLo → t.read a = s.read a) ∧ (s.params.wf = true → a < 0x0A0 → t.read a = s.read a) ∧
    (s.params = defaultParams → a < 0x200 → t.read a = s.read a)

/-- R268: in the idle loop every step, the host doing nothing, leaves the state unchanged. -/
def Obligations.IdleLoopLeavesTheStateUnchanged : Prop :=
  ∀ s : State, s.idle → s.host = [] → step s = .next s ∧ ∀ k, s.stepN k = .next s
end

