-- ==== Sys2Proof/Laws/Decode.lean ====
section
/-!
SUPPORT. Laws/Decode.lean: the fields of 30_encoding.md R73 and the formats of R74 as arithmetic on the word's value,
so that everything about encodings is linear arithmetic; what the two bytes of a word give back.
-/

namespace Sys2Proof

/-! ## Fields as arithmetic -/

theorem Field.opcode_toNat (w : Word) : (Field.opcode w).toNat = w.toNat / 0x1000 := by
  simp only [Field.opcode, BitVec.extractLsb'_toNat, Nat.shiftRight_eq_div_pow]
  have := w.isLt
  omega

theorem Field.x_val (w : Word) : (Field.x w).val = w.toNat / 0x100 % 0x10 := by
  have h : (Field.x w).val = (w.extractLsb' 8 4).toNat := rfl
  rw [h, BitVec.extractLsb'_toNat, Nat.shiftRight_eq_div_pow]

theorem Field.y_val (w : Word) : (Field.y w).val = w.toNat / 0x10 % 0x10 := by
  have h : (Field.y w).val = (w.extractLsb' 4 4).toNat := rfl
  rw [h, BitVec.extractLsb'_toNat, Nat.shiftRight_eq_div_pow]

theorem Field.n_toNat (w : Word) : (Field.n w).toNat = w.toNat % 0x10 := by
  simp [Field.n, BitVec.extractLsb'_toNat]

theorem Field.kk_toNat (w : Word) : (Field.kk w).toNat = w.toNat % 0x100 := by
  simp [Field.kk, BitVec.extractLsb'_toNat]

theorem Field.nnn_toNat (w : Word) : (Field.nnn w).toNat = w.toNat % 0x1000 := by
  simp [Field.nnn, BitVec.extractLsb'_toNat]

/-! ## Formats as arithmetic -/

theorem toNat_append_eq_add {m n : Nat} (a : BitVec m) (b : BitVec n) :
    (a ++ b).toNat = a.toNat * 2 ^ n + b.toNat := by
  rw [BitVec.toNat_append, ← Nat.shiftLeft_add_eq_or_of_lt b.isLt, Nat.shiftLeft_eq]

theorem regField_toNat (r : Reg) : (regField r).toNat = r.val := rfl

theorem formNNN_toNat (op : BitVec 4) (a : Addr12) : (formNNN op a).toNat = op.toNat * 0x1000 + a.toNat :=
  toNat_append_eq_add op a

theorem formXKK_toNat (op : BitVec 4) (x : Reg) (kk : Byte) :
    (formXKK op x kk).toNat = op.toNat * 0x1000 + x.val * 0x100 + kk.toNat := by
  have h := toNat_append_eq_add (op ++ regField x) kk
  rw [toNat_append_eq_add op (regField x), regField_toNat] at h
  refine h.trans ?_
  ring

theorem formXFF_toNat (op : BitVec 4) (x : Reg) (f : Byte) :
    (formXFF op x f).toNat = op.toNat * 0x1000 + x.val * 0x100 + f.toNat :=
  formXKK_toNat op x f

theorem formXYN_toNat (op : BitVec 4) (x y : Reg) (n : BitVec 4) :
    (formXYN op x y n).toNat = op.toNat * 0x1000 + x.val * 0x100 + y.val * 0x10 + n.toNat := by
  have h := toNat_append_eq_add (op ++ regField x ++ regField y) n
  rw [toNat_append_eq_add (op ++ regField x) (regField y), toNat_append_eq_add op (regField x), regField_toNat,
    regField_toNat] at h
  refine h.trans ?_
  ring

/-! ## Bytes of a word (20_memory.md R54) -/

theorem wordOfBytes_toNat (hi lo : Byte) : (wordOfBytes hi lo).toNat = hi.toNat * 0x100 + lo.toNat :=
  toNat_append_eq_add hi lo

theorem hiByte_toNat (w : Word) : (hiByte w).toNat = w.toNat / 0x100 := by
  simp only [hiByte, BitVec.extractLsb'_toNat, Nat.shiftRight_eq_div_pow]
  have := w.isLt
  omega

theorem loByte_toNat (w : Word) : (loByte w).toNat = w.toNat % 0x100 := by
  simp [loByte, BitVec.extractLsb'_toNat]

@[simp] theorem wordOfBytes_hiByte_loByte (w : Word) : wordOfBytes (hiByte w) (loByte w) = w := by
  apply BitVec.eq_of_toNat_eq
  rw [wordOfBytes_toNat, hiByte_toNat, loByte_toNat]
  omega

@[simp] theorem hiByte_wordOfBytes (hi lo : Byte) : hiByte (wordOfBytes hi lo) = hi := by
  apply BitVec.eq_of_toNat_eq
  rw [hiByte_toNat, wordOfBytes_toNat]
  have := lo.isLt
  omega

@[simp] theorem loByte_wordOfBytes (hi lo : Byte) : loByte (wordOfBytes hi lo) = lo := by
  apply BitVec.eq_of_toNat_eq
  rw [loByte_toNat, wordOfBytes_toNat]
  have := lo.isLt
  omega

/-- Decoding two bytes is decoding their word. -/
theorem decodeBytes_cons (hi lo : Byte) (rest : List Byte) :
    decodeBytes (hi :: lo :: rest) = (decode (wordOfBytes hi lo)).map fun i => (i, rest) := by
  simp only [decodeBytes]
  cases decode (wordOfBytes hi lo) <;> rfl

end Sys2Proof
end

