-- ==== Sys2Proof/Laws/Memory.lean ====
section
/-!
SUPPORT. Laws/Memory.lean: the laws of the byte memory.  A read after a write to the same address gives the value
written and every other address reads as before, for EVERY list; a write inside the address space keeps the canonical
form; and in that form equal memories are equal lists.
-/

namespace Sys2Proof.Machine

variable {font : Config.Font}

/-! ## Read after write -/

theorem Memory.lookup_erase (m : Memory) (a b : Nat) :
    (m.erase a).lookup b = if a = b then none else m.lookup b := by
  induction m with
  | nil => simp [Memory.erase, Memory.lookup]
  | cons c m ih =>
    obtain ⟨k, v⟩ := c
    simp only [Memory.erase, Memory.lookup]
    split_ifs with h1 h2 <;> simp_all [Memory.lookup]

theorem Memory.lookup_insert (m : Memory) (a b : Nat) (v : Byte) :
    (m.insert a v).lookup b = if a = b then some v else m.lookup b := by
  induction m with
  | nil => simp [Memory.insert, Memory.lookup]
  | cons c m ih =>
    obtain ⟨k, u⟩ := c
    by_cases h1 : a < k
    · simp [Memory.insert, Memory.lookup, h1]
    · by_cases h2 : a = k
      · subst h2
        by_cases hb : a = b <;> simp [Memory.insert, Memory.lookup, hb]
      · by_cases hb : a = b
        · subst hb
          simp [Memory.insert, Memory.lookup, h1, h2, Ne.symm h2, ih]
        · simp [Memory.insert, Memory.lookup, h1, h2, hb, ih]

/-- One write, seen through every read. -/
theorem Memory.read_write (m : Memory) (a b : Nat) (v : Byte) :
    (m.write font a v).read font b = if a = b then v else m.read font b := by
  unfold Memory.write Memory.read
  split_ifs with h1 h2 h3
  · simp [Memory.lookup_erase, ← h2, h1]
  · simp [Memory.lookup_erase, h2]
  · simp [Memory.lookup_insert, h3]
  · simp [Memory.lookup_insert, h3]

@[simp] theorem Memory.read_write_same (m : Memory) (a : Nat) (v : Byte) : (m.write font a v).read font a = v := by
  simp [Memory.read_write]

theorem Memory.read_write_other (m : Memory) {a b : Nat} (v : Byte) (h : a ≠ b) :
    (m.write font a v).read font b = m.read font b := by
  simp [Memory.read_write, h]

/-- Consecutive writes, seen through every read. -/
theorem Memory.read_writeBytes (m : Memory) (a b : Nat) (vs : List Byte) :
    (m.writeBytes font a vs).read font b = if a ≤ b then vs.getD (b - a) (m.read font b) else m.read font b := by
  induction vs generalizing m a with
  | nil => simp [Memory.writeBytes]
  | cons v vs ih =>
    rw [Memory.writeBytes, ih, Memory.read_write]
    obtain h | h | h := Nat.lt_trichotomy a b
    · have e : b - a = (b - (a + 1)) + 1 := by omega
      rw [if_pos (by omega), if_neg (by omega), if_pos (by omega), e, List.getD_cons_succ]
    · subst h
      simp
    · rw [if_neg (by omega), if_neg (by omega), if_neg (by omega)]

/-- Every byte outside the written ones reads as before. -/
theorem Memory.read_writeBytes_outside (m : Memory) (a b : Nat) (vs : List Byte) (h : b < a ∨ a + vs.length ≤ b) :
    (m.writeBytes font a vs).read font b = m.read font b := by
  rw [Memory.read_writeBytes]
  split_ifs
  · rw [List.getD_eq_default _ _ (by omega)]
  · rfl

/-- The written bytes. -/
theorem Memory.read_writeBytes_inside (m : Memory) (a j : Nat) (vs : List Byte) (h : j < vs.length) :
    (m.writeBytes font a vs).read font (a + j) = vs[j] := by
  rw [Memory.read_writeBytes, if_pos (by omega), show a + j - a = j by omega, List.getD_eq_getElem _ _ h]

@[simp] theorem Memory.length_readBytes (m : Memory) (a k : Nat) : (m.readBytes font a k).length = k := by
  induction k generalizing a with
  | zero => rfl
  | succ k ih => simp [Memory.readBytes, ih]

@[simp] theorem Memory.getElem_readBytes (m : Memory) (a k j : Nat) (h : j < (m.readBytes font a k).length) :
    (m.readBytes font a k)[j] = m.read font (a + j) := by
  induction k generalizing a j with
  | zero => simp [Memory.readBytes] at h
  | succ k ih =>
    cases j with
    | zero => simp [Memory.readBytes]
    | succ j =>
      simp only [Memory.readBytes, List.getElem_cons_succ]
      rw [ih]
      congr 1
      omega

/-! ## The canonical form -/

/-- `Memory.wf` as two facts about the list. -/
theorem Memory.wf_iff (m : Memory) :
    m.wf font = true ↔ m.risesFrom 0 = true ∧ ∀ c ∈ m, c.1 < Config.memSize ∧ c.2 ≠ Memory.unlisted font c.1 := by
  simp [Memory.wf]

theorem Memory.risesFrom_mono {m : Memory} {lo lo' : Nat} (h : m.risesFrom lo = true) (hl : lo' ≤ lo) :
    m.risesFrom lo' = true := by
  cases m with
  | nil => rfl
  | cons c m =>
    simp only [Memory.risesFrom, Bool.and_eq_true, decide_eq_true_eq] at h ⊢
    exact ⟨by omega, h.2⟩

theorem Memory.risesFrom_erase {m : Memory} {lo : Nat} (a : Nat) (h : m.risesFrom lo = true) :
    (m.erase a).risesFrom lo = true := by
  induction m generalizing lo with
  | nil => rfl
  | cons c m ih =>
    simp only [Memory.risesFrom, Bool.and_eq_true, decide_eq_true_eq] at h
    simp only [Memory.erase]
    split_ifs
    · exact ih (Memory.risesFrom_mono h.2 (by omega))
    · simpa [Memory.risesFrom, h.1] using ih h.2

theorem Memory.risesFrom_insert {m : Memory} {lo a : Nat} (v : Byte) (h : m.risesFrom lo = true) (ha : lo ≤ a) :
    (m.insert a v).risesFrom lo = true := by
  induction m generalizing lo with
  | nil => simpa [Memory.insert, Memory.risesFrom] using ha
  | cons c m ih =>
    simp only [Memory.risesFrom, Bool.and_eq_true, decide_eq_true_eq] at h
    simp only [Memory.insert]
    split_ifs with h1 h2
    · simp only [Memory.risesFrom, Bool.and_eq_true, decide_eq_true_eq]
      exact ⟨ha, by omega, h.2⟩
    · subst h2
      simpa [Memory.risesFrom, ha] using h.2
    · simpa [Memory.risesFrom, h.1] using ih h.2 (by omega)

theorem Memory.mem_erase {m : Memory} {a : Nat} {c : Host.Cell} (h : c ∈ m.erase a) : c ∈ m := by
  induction m with
  | nil => simp [Memory.erase] at h
  | cons d m ih =>
    simp only [Memory.erase] at h
    split_ifs at h
    · exact List.mem_cons_of_mem _ (ih h)
    · rcases List.mem_cons.1 h with rfl | h
      · exact List.mem_cons_self
      · exact List.mem_cons_of_mem _ (ih h)

theorem Memory.mem_insert {m : Memory} {a : Nat} {v : Byte} {c : Host.Cell} (h : c ∈ m.insert a v) :
    c = (a, v) ∨ c ∈ m := by
  induction m with
  | nil => simpa [Memory.insert] using h
  | cons d m ih =>
    simp only [Memory.insert] at h
    split_ifs at h
    · exact List.mem_cons.1 h
    · rcases List.mem_cons.1 h with rfl | h
      · exact .inl rfl
      · exact .inr (List.mem_cons_of_mem _ h)
    · rcases List.mem_cons.1 h with rfl | h
      · exact .inr List.mem_cons_self
      · exact (ih h).imp id (List.mem_cons_of_mem _)

/-- A write inside the address space keeps the canonical form. -/
theorem Memory.wf_write {m : Memory} {a : Nat} (v : Byte) (h : m.wf font = true) (ha : a < Config.memSize) :
    (m.write font a v).wf font = true := by
  rw [Memory.wf_iff] at h ⊢
  unfold Memory.write
  split_ifs with hv
  · exact ⟨Memory.risesFrom_erase a h.1, fun c hc => h.2 c (Memory.mem_erase hc)⟩
  · refine ⟨Memory.risesFrom_insert v h.1 (Nat.zero_le a), fun c hc => ?_⟩
    rcases Memory.mem_insert hc with rfl | hc
    · exact ⟨ha, hv⟩
    · exact h.2 c hc

/-- Consecutive writes inside the address space keep the canonical form. -/
theorem Memory.wf_writeBytes {m : Memory} {a : Nat} (vs : List Byte) (h : m.wf font = true)
    (ha : a + vs.length ≤ Config.memSize) : (m.writeBytes font a vs).wf font = true := by
  induction vs generalizing m a with
  | nil => exact h
  | cons v vs ih =>
    rw [List.length_cons] at ha
    exact ih (Memory.wf_write v h (by omega)) (by omega)

theorem Memory.lookup_eq_none_of_risesFrom {m : Memory} {lo a : Nat} (h : m.risesFrom lo = true) (ha : a < lo) :
    m.lookup a = none := by
  induction m generalizing lo with
  | nil => rfl
  | cons c m ih =>
    simp only [Memory.risesFrom, Bool.and_eq_true, decide_eq_true_eq] at h
    rw [Memory.lookup, if_neg (by omega)]
    exact ih h.2 (by omega)

/-- The key at the head of one canonical list stands in the other, if both read alike. -/
theorem Memory.lookup_eq_of_read_eq {m n : Memory} (hm : m.wf font = true) (hn : n.wf font = true)
    (h : ∀ a, m.read font a = n.read font a) (a : Nat) : m.lookup a = n.lookup a := by
  have listed : ∀ {m : Memory}, m.wf font = true → ∀ v, m.lookup a = some v → v ≠ Memory.unlisted font a := by
    intro m hm v hv
    rw [Memory.wf_iff] at hm
    have : (a, v) ∈ m := by
      clear hm h
      induction m with
      | nil => simp [Memory.lookup] at hv
      | cons c m ih =>
        simp only [Memory.lookup] at hv
        split_ifs at hv with hc
        · simp only [Option.some.injEq] at hv
          subst hc hv
          exact List.mem_cons_self
        · exact List.mem_cons_of_mem _ (ih hv)
    exact (hm.2 _ this).2
  have ha := h a
  unfold Memory.read at ha
  cases hx : m.lookup a with
  | none =>
    cases hy : n.lookup a with
    | none => rfl
    | some w => exact absurd (by simpa [hx, hy] using ha.symm) (listed hn w hy)
  | some v =>
    cases hy : n.lookup a with
    | none => exact absurd (by simpa [hx, hy] using ha) (listed hm v hx)
    | some w => simpa [hx, hy] using ha

theorem Memory.eq_of_lookup_eq {m n : Memory} {lo : Nat} (hm : m.risesFrom lo = true) (hn : n.risesFrom lo = true)
    (h : ∀ a, m.lookup a = n.lookup a) : m = n := by
  induction m generalizing n lo with
  | nil =>
    cases n with
    | nil => rfl
    | cons d n => simpa [Memory.lookup] using h d.1
  | cons c m ih =>
    cases n with
    | nil => simpa [Memory.lookup] using h c.1
    | cons d n =>
      obtain ⟨a, v⟩ := c
      obtain ⟨b, w⟩ := d
      simp only [Memory.risesFrom, Bool.and_eq_true, decide_eq_true_eq] at hm hn
      have key : a = b := by
        rcases Nat.lt_trichotomy a b with hlt | heq | hlt
        · have := h a
          rw [Memory.lookup, if_pos rfl, Memory.lookup, if_neg (by omega),
            Memory.lookup_eq_none_of_risesFrom hn.2 (by omega)] at this
          cases this
        · exact heq
        · have := h b
          rw [Memory.lookup, if_neg (by omega), Memory.lookup_eq_none_of_risesFrom hm.2 (by omega), Memory.lookup,
            if_pos rfl] at this
          cases this
      subst key
      have hv : v = w := by simpa [Memory.lookup] using h a
      subst hv
      have : m = n := by
        refine ih hm.2 hn.2 fun k => ?_
        by_cases hk : a = k
        · subst hk
          rw [Memory.lookup_eq_none_of_risesFrom hm.2 (by omega), Memory.lookup_eq_none_of_risesFrom hn.2 (by omega)]
        · simpa [Memory.lookup, hk] using h k
      rw [this]

/-- Equal memories are equal data. -/
theorem Memory.ext {m n : Memory} (hm : m.wf font = true) (hn : n.wf font = true) (h : ∀ a, m.read font a = n.read font a) : m = n :=
  Memory.eq_of_lookup_eq ((Memory.wf_iff m).1 hm).1 ((Memory.wf_iff n).1 hn).1 (Memory.lookup_eq_of_read_eq hm hn h)

end Sys2Proof.Machine
end

