-- ==== Sys2Proof/Laws/State.lean ====
section
/-!
SUPPORT. Laws/State.lean: one lemma per field per update of the state, each true by unfolding the update once, so that
no later proof unfolds a record update.  `reg`, `dataAddr` are the two field views the meanings read through.
-/

namespace Sys2Proof.Machine

/-! ## Registers -/

theorem State.reg_def (s : State) (y : Reg) : s.reg y = s.V[y.val] := rfl

/-- What writing one register does to every register. -/
@[simp] theorem State.reg_setReg (s : State) (x y : Reg) (v : Byte) :
    (s.setReg x v).reg y = if y = x then v else s.reg y := by
  simp only [State.reg_def, State.setReg, Vector.getElem_set, Fin.ext_iff, eq_comm]

/-- VF first, V[x] second (42_alu.md R120). -/
@[simp] theorem State.reg_setFlagged (s : State) (x y : Reg) (flag v : Byte) :
    (s.setFlagged x flag v).reg y = if y = x then v else if y = VF then flag else s.reg y := by
  simp [State.setFlagged]

@[simp] theorem State.reg_loadRegs (s : State) (x y : Reg) :
    (s.loadRegs x).reg y = if y.val ≤ x.val then s.read (s.dataAddr y.val) else s.reg y := by
  simp [State.reg_def, State.loadRegs, Vector.get]

@[simp] theorem State.reg_resume (s : State) (x y : Reg) (k : Fin 16) :
    (s.resume x k).reg y = if y = x then BitVec.ofNat 8 k.val else s.reg y :=
  s.reg_setReg x y _

/-- A byte reads the same wherever memory and the parameters are the same. -/
theorem State.read_congr {s t : State} (hm : t.mem = s.mem) (hp : t.params = s.params) (a : Nat) :
    t.read a = s.read a := by
  rw [State.read, State.read, hm, hp]

/-! ## setReg -/

@[simp] theorem State.setReg_V (s : State) (x : Reg) (v : Byte) : (s.setReg x v).V = s.V.set x.val v x.isLt := rfl
@[simp] theorem State.setReg_I (s : State) (x : Reg) (v : Byte) : (s.setReg x v).I = s.I := rfl
@[simp] theorem State.setReg_pc (s : State) (x : Reg) (v : Byte) : (s.setReg x v).pc = s.pc := rfl
@[simp] theorem State.setReg_stack (s : State) (x : Reg) (v : Byte) : (s.setReg x v).stack = s.stack := rfl
@[simp] theorem State.setReg_sp (s : State) (x : Reg) (v : Byte) : (s.setReg x v).sp = s.sp := rfl
@[simp] theorem State.setReg_DT (s : State) (x : Reg) (v : Byte) : (s.setReg x v).DT = s.DT := rfl
@[simp] theorem State.setReg_ST (s : State) (x : Reg) (v : Byte) : (s.setReg x v).ST = s.ST := rfl
@[simp] theorem State.setReg_keys (s : State) (x : Reg) (v : Byte) : (s.setReg x v).keys = s.keys := rfl
@[simp] theorem State.setReg_fb (s : State) (x : Reg) (v : Byte) : (s.setReg x v).fb = s.fb := rfl
@[simp] theorem State.setReg_mem (s : State) (x : Reg) (v : Byte) : (s.setReg x v).mem = s.mem := rfl
@[simp] theorem State.setReg_run (s : State) (x : Reg) (v : Byte) : (s.setReg x v).run = s.run := rfl
@[simp] theorem State.setReg_draws (s : State) (x : Reg) (v : Byte) : (s.setReg x v).draws = s.draws := rfl
@[simp] theorem State.setReg_host (s : State) (x : Reg) (v : Byte) : (s.setReg x v).host = s.host := rfl
@[simp] theorem State.setReg_params (s : State) (x : Reg) (v : Byte) : (s.setReg x v).params = s.params := rfl
@[simp] theorem State.setReg_read (s : State) (x : Reg) (v : Byte) (a : Nat) : (s.setReg x v).read a = s.read a := rfl
@[simp] theorem State.setReg_dataAddr (s : State) (x : Reg) (v : Byte) (j : Nat) : (s.setReg x v).dataAddr j = s.dataAddr j := rfl

/-! ## setI -/

@[simp] theorem State.setI_V (s : State) (v : Word) : (s.setI v).V = s.V := rfl
@[simp] theorem State.setI_I (s : State) (v : Word) : (s.setI v).I = v := rfl
@[simp] theorem State.setI_pc (s : State) (v : Word) : (s.setI v).pc = s.pc := rfl
@[simp] theorem State.setI_stack (s : State) (v : Word) : (s.setI v).stack = s.stack := rfl
@[simp] theorem State.setI_sp (s : State) (v : Word) : (s.setI v).sp = s.sp := rfl
@[simp] theorem State.setI_DT (s : State) (v : Word) : (s.setI v).DT = s.DT := rfl
@[simp] theorem State.setI_ST (s : State) (v : Word) : (s.setI v).ST = s.ST := rfl
@[simp] theorem State.setI_keys (s : State) (v : Word) : (s.setI v).keys = s.keys := rfl
@[simp] theorem State.setI_fb (s : State) (v : Word) : (s.setI v).fb = s.fb := rfl
@[simp] theorem State.setI_mem (s : State) (v : Word) : (s.setI v).mem = s.mem := rfl
@[simp] theorem State.setI_run (s : State) (v : Word) : (s.setI v).run = s.run := rfl
@[simp] theorem State.setI_draws (s : State) (v : Word) : (s.setI v).draws = s.draws := rfl
@[simp] theorem State.setI_host (s : State) (v : Word) : (s.setI v).host = s.host := rfl
@[simp] theorem State.setI_params (s : State) (v : Word) : (s.setI v).params = s.params := rfl
@[simp] theorem State.setI_read (s : State) (v : Word) (a : Nat) : (s.setI v).read a = s.read a := rfl
@[simp] theorem State.setI_reg (s : State) (v : Word) (y : Reg) : (s.setI v).reg y = s.reg y := rfl

/-! ## setDT -/

@[simp] theorem State.setDT_V (s : State) (v : Byte) : (s.setDT v).V = s.V := rfl
@[simp] theorem State.setDT_I (s : State) (v : Byte) : (s.setDT v).I = s.I := rfl
@[simp] theorem State.setDT_pc (s : State) (v : Byte) : (s.setDT v).pc = s.pc := rfl
@[simp] theorem State.setDT_stack (s : State) (v : Byte) : (s.setDT v).stack = s.stack := rfl
@[simp] theorem State.setDT_sp (s : State) (v : Byte) : (s.setDT v).sp = s.sp := rfl
@[simp] theorem State.setDT_DT (s : State) (v : Byte) : (s.setDT v).DT = v := rfl
@[simp] theorem State.setDT_ST (s : State) (v : Byte) : (s.setDT v).ST = s.ST := rfl
@[simp] theorem State.setDT_keys (s : State) (v : Byte) : (s.setDT v).keys = s.keys := rfl
@[simp] theorem State.setDT_fb (s : State) (v : Byte) : (s.setDT v).fb = s.fb := rfl
@[simp] theorem State.setDT_mem (s : State) (v : Byte) : (s.setDT v).mem = s.mem := rfl
@[simp] theorem State.setDT_run (s : State) (v : Byte) : (s.setDT v).run = s.run := rfl
@[simp] theorem State.setDT_draws (s : State) (v : Byte) : (s.setDT v).draws = s.draws := rfl
@[simp] theorem State.setDT_host (s : State) (v : Byte) : (s.setDT v).host = s.host := rfl
@[simp] theorem State.setDT_params (s : State) (v : Byte) : (s.setDT v).params = s.params := rfl
@[simp] theorem State.setDT_read (s : State) (v : Byte) (a : Nat) : (s.setDT v).read a = s.read a := rfl
@[simp] theorem State.setDT_reg (s : State) (v : Byte) (y : Reg) : (s.setDT v).reg y = s.reg y := rfl
@[simp] theorem State.setDT_dataAddr (s : State) (v : Byte) (j : Nat) : (s.setDT v).dataAddr j = s.dataAddr j := rfl

/-! ## setST -/

@[simp] theorem State.setST_V (s : State) (v : Byte) : (s.setST v).V = s.V := rfl
@[simp] theorem State.setST_I (s : State) (v : Byte) : (s.setST v).I = s.I := rfl
@[simp] theorem State.setST_pc (s : State) (v : Byte) : (s.setST v).pc = s.pc := rfl
@[simp] theorem State.setST_stack (s : State) (v : Byte) : (s.setST v).stack = s.stack := rfl
@[simp] theorem State.setST_sp (s : State) (v : Byte) : (s.setST v).sp = s.sp := rfl
@[simp] theorem State.setST_DT (s : State) (v : Byte) : (s.setST v).DT = s.DT := rfl
@[simp] theorem State.setST_ST (s : State) (v : Byte) : (s.setST v).ST = v := rfl
@[simp] theorem State.setST_keys (s : State) (v : Byte) : (s.setST v).keys = s.keys := rfl
@[simp] theorem State.setST_fb (s : State) (v : Byte) : (s.setST v).fb = s.fb := rfl
@[simp] theorem State.setST_mem (s : State) (v : Byte) : (s.setST v).mem = s.mem := rfl
@[simp] theorem State.setST_run (s : State) (v : Byte) : (s.setST v).run = s.run := rfl
@[simp] theorem State.setST_draws (s : State) (v : Byte) : (s.setST v).draws = s.draws := rfl
@[simp] theorem State.setST_host (s : State) (v : Byte) : (s.setST v).host = s.host := rfl
@[simp] theorem State.setST_params (s : State) (v : Byte) : (s.setST v).params = s.params := rfl
@[simp] theorem State.setST_read (s : State) (v : Byte) (a : Nat) : (s.setST v).read a = s.read a := rfl
@[simp] theorem State.setST_reg (s : State) (v : Byte) (y : Reg) : (s.setST v).reg y = s.reg y := rfl
@[simp] theorem State.setST_dataAddr (s : State) (v : Byte) (j : Nat) : (s.setST v).dataAddr j = s.dataAddr j := rfl

/-! ## setFb -/

@[simp] theorem State.setFb_V (s : State) (fb : Framebuffer) : (s.setFb fb).V = s.V := rfl
@[simp] theorem State.setFb_I (s : State) (fb : Framebuffer) : (s.setFb fb).I = s.I := rfl
@[simp] theorem State.setFb_pc (s : State) (fb : Framebuffer) : (s.setFb fb).pc = s.pc := rfl
@[simp] theorem State.setFb_stack (s : State) (fb : Framebuffer) : (s.setFb fb).stack = s.stack := rfl
@[simp] theorem State.setFb_sp (s : State) (fb : Framebuffer) : (s.setFb fb).sp = s.sp := rfl
@[simp] theorem State.setFb_DT (s : State) (fb : Framebuffer) : (s.setFb fb).DT = s.DT := rfl
@[simp] theorem State.setFb_ST (s : State) (fb : Framebuffer) : (s.setFb fb).ST = s.ST := rfl
@[simp] theorem State.setFb_keys (s : State) (fb : Framebuffer) : (s.setFb fb).keys = s.keys := rfl
@[simp] theorem State.setFb_fb (s : State) (fb : Framebuffer) : (s.setFb fb).fb = fb := rfl
@[simp] theorem State.setFb_mem (s : State) (fb : Framebuffer) : (s.setFb fb).mem = s.mem := rfl
@[simp] theorem State.setFb_run (s : State) (fb : Framebuffer) : (s.setFb fb).run = s.run := rfl
@[simp] theorem State.setFb_draws (s : State) (fb : Framebuffer) : (s.setFb fb).draws = s.draws := rfl
@[simp] theorem State.setFb_host (s : State) (fb : Framebuffer) : (s.setFb fb).host = s.host := rfl
@[simp] theorem State.setFb_params (s : State) (fb : Framebuffer) : (s.setFb fb).params = s.params := rfl
@[simp] theorem State.setFb_read (s : State) (fb : Framebuffer) (a : Nat) : (s.setFb fb).read a = s.read a := rfl
@[simp] theorem State.setFb_reg (s : State) (fb : Framebuffer) (y : Reg) : (s.setFb fb).reg y = s.reg y := rfl
@[simp] theorem State.setFb_dataAddr (s : State) (fb : Framebuffer) (j : Nat) : (s.setFb fb).dataAddr j = s.dataAddr j := rfl

/-! ## setFlagged -/

@[simp] theorem State.setFlagged_I (s : State) (x : Reg) (flag v : Byte) : (s.setFlagged x flag v).I = s.I := rfl
@[simp] theorem State.setFlagged_pc (s : State) (x : Reg) (flag v : Byte) : (s.setFlagged x flag v).pc = s.pc := rfl
@[simp] theorem State.setFlagged_stack (s : State) (x : Reg) (flag v : Byte) : (s.setFlagged x flag v).stack = s.stack := rfl
@[simp] theorem State.setFlagged_sp (s : State) (x : Reg) (flag v : Byte) : (s.setFlagged x flag v).sp = s.sp := rfl
@[simp] theorem State.setFlagged_DT (s : State) (x : Reg) (flag v : Byte) : (s.setFlagged x flag v).DT = s.DT := rfl
@[simp] theorem State.setFlagged_ST (s : State) (x : Reg) (flag v : Byte) : (s.setFlagged x flag v).ST = s.ST := rfl
@[simp] theorem State.setFlagged_keys (s : State) (x : Reg) (flag v : Byte) : (s.setFlagged x flag v).keys = s.keys := rfl
@[simp] theorem State.setFlagged_fb (s : State) (x : Reg) (flag v : Byte) : (s.setFlagged x flag v).fb = s.fb := rfl
@[simp] theorem State.setFlagged_mem (s : State) (x : Reg) (flag v : Byte) : (s.setFlagged x flag v).mem = s.mem := rfl
@[simp] theorem State.setFlagged_run (s : State) (x : Reg) (flag v : Byte) : (s.setFlagged x flag v).run = s.run := rfl
@[simp] theorem State.setFlagged_draws (s : State) (x : Reg) (flag v : Byte) : (s.setFlagged x flag v).draws = s.draws := rfl
@[simp] theorem State.setFlagged_host (s : State) (x : Reg) (flag v : Byte) : (s.setFlagged x flag v).host = s.host := rfl
@[simp] theorem State.setFlagged_params (s : State) (x : Reg) (flag v : Byte) : (s.setFlagged x flag v).params = s.params := rfl
@[simp] theorem State.setFlagged_read (s : State) (x : Reg) (flag v : Byte) (a : Nat) : (s.setFlagged x flag v).read a = s.read a := rfl
@[simp] theorem State.setFlagged_dataAddr (s : State) (x : Reg) (flag v : Byte) (j : Nat) : (s.setFlagged x flag v).dataAddr j = s.dataAddr j := rfl

/-! ## jump -/

@[simp] theorem State.jump_V (s : State) (p : Word) : (s.jump p).V = s.V := rfl
@[simp] theorem State.jump_I (s : State) (p : Word) : (s.jump p).I = s.I := rfl
@[simp] theorem State.jump_pc (s : State) (p : Word) : (s.jump p).pc = p := rfl
@[simp] theorem State.jump_stack (s : State) (p : Word) : (s.jump p).stack = s.stack := rfl
@[simp] theorem State.jump_sp (s : State) (p : Word) : (s.jump p).sp = s.sp := rfl
@[simp] theorem State.jump_DT (s : State) (p : Word) : (s.jump p).DT = s.DT := rfl
@[simp] theorem State.jump_ST (s : State) (p : Word) : (s.jump p).ST = s.ST := rfl
@[simp] theorem State.jump_keys (s : State) (p : Word) : (s.jump p).keys = s.keys := rfl
@[simp] theorem State.jump_fb (s : State) (p : Word) : (s.jump p).fb = s.fb := rfl
@[simp] theorem State.jump_mem (s : State) (p : Word) : (s.jump p).mem = s.mem := rfl
@[simp] theorem State.jump_run (s : State) (p : Word) : (s.jump p).run = s.run := rfl
@[simp] theorem State.jump_draws (s : State) (p : Word) : (s.jump p).draws = s.draws := rfl
@[simp] theorem State.jump_host (s : State) (p : Word) : (s.jump p).host = s.host := rfl
@[simp] theorem State.jump_params (s : State) (p : Word) : (s.jump p).params = s.params := rfl
@[simp] theorem State.jump_read (s : State) (p : Word) (a : Nat) : (s.jump p).read a = s.read a := rfl
@[simp] theorem State.jump_reg (s : State) (p : Word) (y : Reg) : (s.jump p).reg y = s.reg y := rfl
@[simp] theorem State.jump_dataAddr (s : State) (p : Word) (j : Nat) : (s.jump p).dataAddr j = s.dataAddr j := rfl

/-! ## advance -/

@[simp] theorem State.advance_V (s : State) : (s.advance).V = s.V := rfl
@[simp] theorem State.advance_I (s : State) : (s.advance).I = s.I := rfl
@[simp] theorem State.advance_pc (s : State) : (s.advance).pc = s.pc + 2 := rfl
@[simp] theorem State.advance_stack (s : State) : (s.advance).stack = s.stack := rfl
@[simp] theorem State.advance_sp (s : State) : (s.advance).sp = s.sp := rfl
@[simp] theorem State.advance_DT (s : State) : (s.advance).DT = s.DT := rfl
@[simp] theorem State.advance_ST (s : State) : (s.advance).ST = s.ST := rfl
@[simp] theorem State.advance_keys (s : State) : (s.advance).keys = s.keys := rfl
@[simp] theorem State.advance_fb (s : State) : (s.advance).fb = s.fb := rfl
@[simp] theorem State.advance_mem (s : State) : (s.advance).mem = s.mem := rfl
@[simp] theorem State.advance_run (s : State) : (s.advance).run = s.run := rfl
@[simp] theorem State.advance_draws (s : State) : (s.advance).draws = s.draws := rfl
@[simp] theorem State.advance_host (s : State) : (s.advance).host = s.host := rfl
@[simp] theorem State.advance_params (s : State) : (s.advance).params = s.params := rfl
@[simp] theorem State.advance_read (s : State) (a : Nat) : (s.advance).read a = s.read a := rfl
@[simp] theorem State.advance_reg (s : State) (y : Reg) : (s.advance).reg y = s.reg y := rfl
@[simp] theorem State.advance_dataAddr (s : State) (j : Nat) : (s.advance).dataAddr j = s.dataAddr j := rfl

/-! ## skipIf -/

@[simp] theorem State.skipIf_V (s : State) (c : Bool) : (s.skipIf c).V = s.V := by cases c <;> rfl
@[simp] theorem State.skipIf_I (s : State) (c : Bool) : (s.skipIf c).I = s.I := by cases c <;> rfl
@[simp] theorem State.skipIf_pc (s : State) (c : Bool) : (s.skipIf c).pc = if c then s.pc + 4 else s.pc + 2 := by cases c <;> rfl
@[simp] theorem State.skipIf_stack (s : State) (c : Bool) : (s.skipIf c).stack = s.stack := by cases c <;> rfl
@[simp] theorem State.skipIf_sp (s : State) (c : Bool) : (s.skipIf c).sp = s.sp := by cases c <;> rfl
@[simp] theorem State.skipIf_DT (s : State) (c : Bool) : (s.skipIf c).DT = s.DT := by cases c <;> rfl
@[simp] theorem State.skipIf_ST (s : State) (c : Bool) : (s.skipIf c).ST = s.ST := by cases c <;> rfl
@[simp] theorem State.skipIf_keys (s : State) (c : Bool) : (s.skipIf c).keys = s.keys := by cases c <;> rfl
@[simp] theorem State.skipIf_fb (s : State) (c : Bool) : (s.skipIf c).fb = s.fb := by cases c <;> rfl
@[simp] theorem State.skipIf_mem (s : State) (c : Bool) : (s.skipIf c).mem = s.mem := by cases c <;> rfl
@[simp] theorem State.skipIf_run (s : State) (c : Bool) : (s.skipIf c).run = s.run := by cases c <;> rfl
@[simp] theorem State.skipIf_draws (s : State) (c : Bool) : (s.skipIf c).draws = s.draws := by cases c <;> rfl
@[simp] theorem State.skipIf_host (s : State) (c : Bool) : (s.skipIf c).host = s.host := by cases c <;> rfl
@[simp] theorem State.skipIf_params (s : State) (c : Bool) : (s.skipIf c).params = s.params := by cases c <;> rfl
@[simp] theorem State.skipIf_read (s : State) (c : Bool) (a : Nat) : (s.skipIf c).read a = s.read a := by cases c <;> rfl
@[simp] theorem State.skipIf_reg (s : State) (c : Bool) (y : Reg) : (s.skipIf c).reg y = s.reg y := by cases c <;> rfl
@[simp] theorem State.skipIf_dataAddr (s : State) (c : Bool) (j : Nat) : (s.skipIf c).dataAddr j = s.dataAddr j := by cases c <;> rfl

/-! ## halt -/

@[simp] theorem State.halt_V (s : State) (r : HaltReason) : (s.halt r).V = s.V := rfl
@[simp] theorem State.halt_I (s : State) (r : HaltReason) : (s.halt r).I = s.I := rfl
@[simp] theorem State.halt_pc (s : State) (r : HaltReason) : (s.halt r).pc = s.pc := rfl
@[simp] theorem State.halt_stack (s : State) (r : HaltReason) : (s.halt r).stack = s.stack := rfl
@[simp] theorem State.halt_sp (s : State) (r : HaltReason) : (s.halt r).sp = s.sp := rfl
@[simp] theorem State.halt_DT (s : State) (r : HaltReason) : (s.halt r).DT = s.DT := rfl
@[simp] theorem State.halt_ST (s : State) (r : HaltReason) : (s.halt r).ST = s.ST := rfl
@[simp] theorem State.halt_keys (s : State) (r : HaltReason) : (s.halt r).keys = s.keys := rfl
@[simp] theorem State.halt_fb (s : State) (r : HaltReason) : (s.halt r).fb = s.fb := rfl
@[simp] theorem State.halt_mem (s : State) (r : HaltReason) : (s.halt r).mem = s.mem := rfl
@[simp] theorem State.halt_run (s : State) (r : HaltReason) : (s.halt r).run = .halted r := rfl
@[simp] theorem State.halt_draws (s : State) (r : HaltReason) : (s.halt r).draws = s.draws := rfl
@[simp] theorem State.halt_host (s : State) (r : HaltReason) : (s.halt r).host = s.host := rfl
@[simp] theorem State.halt_params (s : State) (r : HaltReason) : (s.halt r).params = s.params := rfl
@[simp] theorem State.halt_read (s : State) (r : HaltReason) (a : Nat) : (s.halt r).read a = s.read a := rfl
@[simp] theorem State.halt_reg (s : State) (r : HaltReason) (y : Reg) : (s.halt r).reg y = s.reg y := rfl
@[simp] theorem State.halt_dataAddr (s : State) (r : HaltReason) (j : Nat) : (s.halt r).dataAddr j = s.dataAddr j := rfl

/-! ## suspend -/

@[simp] theorem State.suspend_V (s : State) (x : Reg) : (s.suspend x).V = s.V := rfl
@[simp] theorem State.suspend_I (s : State) (x : Reg) : (s.suspend x).I = s.I := rfl
@[simp] theorem State.suspend_pc (s : State) (x : Reg) : (s.suspend x).pc = s.pc := rfl
@[simp] theorem State.suspend_stack (s : State) (x : Reg) : (s.suspend x).stack = s.stack := rfl
@[simp] theorem State.suspend_sp (s : State) (x : Reg) : (s.suspend x).sp = s.sp := rfl
@[simp] theorem State.suspend_DT (s : State) (x : Reg) : (s.suspend x).DT = s.DT := rfl
@[simp] theorem State.suspend_ST (s : State) (x : Reg) : (s.suspend x).ST = s.ST := rfl
@[simp] theorem State.suspend_keys (s : State) (x : Reg) : (s.suspend x).keys = s.keys := rfl
@[simp] theorem State.suspend_fb (s : State) (x : Reg) : (s.suspend x).fb = s.fb := rfl
@[simp] theorem State.suspend_mem (s : State) (x : Reg) : (s.suspend x).mem = s.mem := rfl
@[simp] theorem State.suspend_run (s : State) (x : Reg) : (s.suspend x).run = .awaitingKey x := rfl
@[simp] theorem State.suspend_draws (s : State) (x : Reg) : (s.suspend x).draws = s.draws := rfl
@[simp] theorem State.suspend_host (s : State) (x : Reg) : (s.suspend x).host = s.host := rfl
@[simp] theorem State.suspend_params (s : State) (x : Reg) : (s.suspend x).params = s.params := rfl
@[simp] theorem State.suspend_read (s : State) (x : Reg) (a : Nat) : (s.suspend x).read a = s.read a := rfl
@[simp] theorem State.suspend_reg (s : State) (x : Reg) (y : Reg) : (s.suspend x).reg y = s.reg y := rfl
@[simp] theorem State.suspend_dataAddr (s : State) (x : Reg) (j : Nat) : (s.suspend x).dataAddr j = s.dataAddr j := rfl

/-! ## resume -/

@[simp] theorem State.resume_V (s : State) (x : Reg) (k : Fin 16) : (s.resume x k).V = (s.setReg x (BitVec.ofNat 8 k.val)).V := rfl
@[simp] theorem State.resume_I (s : State) (x : Reg) (k : Fin 16) : (s.resume x k).I = s.I := rfl
@[simp] theorem State.resume_pc (s : State) (x : Reg) (k : Fin 16) : (s.resume x k).pc = s.pc + 2 := rfl
@[simp] theorem State.resume_stack (s : State) (x : Reg) (k : Fin 16) : (s.resume x k).stack = s.stack := rfl
@[simp] theorem State.resume_sp (s : State) (x : Reg) (k : Fin 16) : (s.resume x k).sp = s.sp := rfl
@[simp] theorem State.resume_DT (s : State) (x : Reg) (k : Fin 16) : (s.resume x k).DT = s.DT := rfl
@[simp] theorem State.resume_ST (s : State) (x : Reg) (k : Fin 16) : (s.resume x k).ST = s.ST := rfl
@[simp] theorem State.resume_keys (s : State) (x : Reg) (k : Fin 16) : (s.resume x k).keys = s.keys := rfl
@[simp] theorem State.resume_fb (s : State) (x : Reg) (k : Fin 16) : (s.resume x k).fb = s.fb := rfl
@[simp] theorem State.resume_mem (s : State) (x : Reg) (k : Fin 16) : (s.resume x k).mem = s.mem := rfl
@[simp] theorem State.resume_run (s : State) (x : Reg) (k : Fin 16) : (s.resume x k).run = .running := rfl
@[simp] theorem State.resume_draws (s : State) (x : Reg) (k : Fin 16) : (s.resume x k).draws = s.draws := rfl
@[simp] theorem State.resume_host (s : State) (x : Reg) (k : Fin 16) : (s.resume x k).host = s.host := rfl
@[simp] theorem State.resume_params (s : State) (x : Reg) (k : Fin 16) : (s.resume x k).params = s.params := rfl
@[simp] theorem State.resume_read (s : State) (x : Reg) (k : Fin 16) (a : Nat) : (s.resume x k).read a = s.read a := rfl
@[simp] theorem State.resume_dataAddr (s : State) (x : Reg) (k : Fin 16) (j : Nat) : (s.resume x k).dataAddr j = s.dataAddr j := rfl

/-! ## writeBytes -/

@[simp] theorem State.writeBytes_V (s : State) (a : Nat) (vs : List Byte) : (s.writeBytes a vs).V = s.V := rfl
@[simp] theorem State.writeBytes_I (s : State) (a : Nat) (vs : List Byte) : (s.writeBytes a vs).I = s.I := rfl
@[simp] theorem State.writeBytes_pc (s : State) (a : Nat) (vs : List Byte) : (s.writeBytes a vs).pc = s.pc := rfl
@[simp] theorem State.writeBytes_stack (s : State) (a : Nat) (vs : List Byte) : (s.writeBytes a vs).stack = s.stack := rfl
@[simp] theorem State.writeBytes_sp (s : State) (a : Nat) (vs : List Byte) : (s.writeBytes a vs).sp = s.sp := rfl
@[simp] theorem State.writeBytes_DT (s : State) (a : Nat) (vs : List Byte) : (s.writeBytes a vs).DT = s.DT := rfl
@[simp] theorem State.writeBytes_ST (s : State) (a : Nat) (vs : List Byte) : (s.writeBytes a vs).ST = s.ST := rfl
@[simp] theorem State.writeBytes_keys (s : State) (a : Nat) (vs : List Byte) : (s.writeBytes a vs).keys = s.keys := rfl
@[simp] theorem State.writeBytes_fb (s : State) (a : Nat) (vs : List Byte) : (s.writeBytes a vs).fb = s.fb := rfl
@[simp] theorem State.writeBytes_mem (s : State) (a : Nat) (vs : List Byte) : (s.writeBytes a vs).mem = s.mem.writeBytes s.params.font a vs := rfl
@[simp] theorem State.writeBytes_run (s : State) (a : Nat) (vs : List Byte) : (s.writeBytes a vs).run = s.run := rfl
@[simp] theorem State.writeBytes_draws (s : State) (a : Nat) (vs : List Byte) : (s.writeBytes a vs).draws = s.draws := rfl
@[simp] theorem State.writeBytes_host (s : State) (a : Nat) (vs : List Byte) : (s.writeBytes a vs).host = s.host := rfl
@[simp] theorem State.writeBytes_params (s : State) (a : Nat) (vs : List Byte) : (s.writeBytes a vs).params = s.params := rfl
@[simp] theorem State.writeBytes_reg (s : State) (a : Nat) (vs : List Byte) (y : Reg) : (s.writeBytes a vs).reg y = s.reg y := rfl
@[simp] theorem State.writeBytes_dataAddr (s : State) (a : Nat) (vs : List Byte) (j : Nat) : (s.writeBytes a vs).dataAddr j = s.dataAddr j := rfl

/-! ## store -/

@[simp] theorem State.store_V (s : State) (vs : List Byte) : (s.store vs).V = s.V := rfl
@[simp] theorem State.store_I (s : State) (vs : List Byte) : (s.store vs).I = s.I := rfl
@[simp] theorem State.store_pc (s : State) (vs : List Byte) : (s.store vs).pc = s.pc := rfl
@[simp] theorem State.store_stack (s : State) (vs : List Byte) : (s.store vs).stack = s.stack := rfl
@[simp] theorem State.store_sp (s : State) (vs : List Byte) : (s.store vs).sp = s.sp := rfl
@[simp] theorem State.store_DT (s : State) (vs : List Byte) : (s.store vs).DT = s.DT := rfl
@[simp] theorem State.store_ST (s : State) (vs : List Byte) : (s.store vs).ST = s.ST := rfl
@[simp] theorem State.store_keys (s : State) (vs : List Byte) : (s.store vs).keys = s.keys := rfl
@[simp] theorem State.store_fb (s : State) (vs : List Byte) : (s.store vs).fb = s.fb := rfl
@[simp] theorem State.store_mem (s : State) (vs : List Byte) : (s.store vs).mem = s.mem.writeBytes s.params.font (s.dataAddr 0) vs := rfl
@[simp] theorem State.store_run (s : State) (vs : List Byte) : (s.store vs).run = s.run := rfl
@[simp] theorem State.store_draws (s : State) (vs : List Byte) : (s.store vs).draws = s.draws := rfl
@[simp] theorem State.store_host (s : State) (vs : List Byte) : (s.store vs).host = s.host := rfl
@[simp] theorem State.store_params (s : State) (vs : List Byte) : (s.store vs).params = s.params := rfl
@[simp] theorem State.store_reg (s : State) (vs : List Byte) (y : Reg) : (s.store vs).reg y = s.reg y := rfl
@[simp] theorem State.store_dataAddr (s : State) (vs : List Byte) (j : Nat) : (s.store vs).dataAddr j = s.dataAddr j := rfl

/-! ## loadRegs -/

@[simp] theorem State.loadRegs_V (s : State) (x : Reg) : (s.loadRegs x).V = Vector.ofFn fun i => if i.val ≤ x.val then s.read (s.dataAddr i.val) else s.V.get i := rfl
@[simp] theorem State.loadRegs_I (s : State) (x : Reg) : (s.loadRegs x).I = s.I := rfl
@[simp] theorem State.loadRegs_pc (s : State) (x : Reg) : (s.loadRegs x).pc = s.pc := rfl
@[simp] theorem State.loadRegs_stack (s : State) (x : Reg) : (s.loadRegs x).stack = s.stack := rfl
@[simp] theorem State.loadRegs_sp (s : State) (x : Reg) : (s.loadRegs x).sp = s.sp := rfl
@[simp] theorem State.loadRegs_DT (s : State) (x : Reg) : (s.loadRegs x).DT = s.DT := rfl
@[simp] theorem State.loadRegs_ST (s : State) (x : Reg) : (s.loadRegs x).ST = s.ST := rfl
@[simp] theorem State.loadRegs_keys (s : State) (x : Reg) : (s.loadRegs x).keys = s.keys := rfl
@[simp] theorem State.loadRegs_fb (s : State) (x : Reg) : (s.loadRegs x).fb = s.fb := rfl
@[simp] theorem State.loadRegs_mem (s : State) (x : Reg) : (s.loadRegs x).mem = s.mem := rfl
@[simp] theorem State.loadRegs_run (s : State) (x : Reg) : (s.loadRegs x).run = s.run := rfl
@[simp] theorem State.loadRegs_draws (s : State) (x : Reg) : (s.loadRegs x).draws = s.draws := rfl
@[simp] theorem State.loadRegs_host (s : State) (x : Reg) : (s.loadRegs x).host = s.host := rfl
@[simp] theorem State.loadRegs_params (s : State) (x : Reg) : (s.loadRegs x).params = s.params := rfl
@[simp] theorem State.loadRegs_read (s : State) (x : Reg) (a : Nat) : (s.loadRegs x).read a = s.read a := rfl
@[simp] theorem State.loadRegs_dataAddr (s : State) (x : Reg) (j : Nat) : (s.loadRegs x).dataAddr j = s.dataAddr j := rfl

/-! ## writeKey -/

@[simp] theorem State.writeKey_V (s : State) (k : Fin 16) (b : Bool) : (s.writeKey k b).V = s.V := rfl
@[simp] theorem State.writeKey_I (s : State) (k : Fin 16) (b : Bool) : (s.writeKey k b).I = s.I := rfl
@[simp] theorem State.writeKey_pc (s : State) (k : Fin 16) (b : Bool) : (s.writeKey k b).pc = s.pc := rfl
@[simp] theorem State.writeKey_stack (s : State) (k : Fin 16) (b : Bool) : (s.writeKey k b).stack = s.stack := rfl
@[simp] theorem State.writeKey_sp (s : State) (k : Fin 16) (b : Bool) : (s.writeKey k b).sp = s.sp := rfl
@[simp] theorem State.writeKey_DT (s : State) (k : Fin 16) (b : Bool) : (s.writeKey k b).DT = s.DT := rfl
@[simp] theorem State.writeKey_ST (s : State) (k : Fin 16) (b : Bool) : (s.writeKey k b).ST = s.ST := rfl
@[simp] theorem State.writeKey_keys (s : State) (k : Fin 16) (b : Bool) : (s.writeKey k b).keys = s.keys.set k.val b k.isLt := rfl
@[simp] theorem State.writeKey_fb (s : State) (k : Fin 16) (b : Bool) : (s.writeKey k b).fb = s.fb := rfl
@[simp] theorem State.writeKey_mem (s : State) (k : Fin 16) (b : Bool) : (s.writeKey k b).mem = s.mem := rfl
@[simp] theorem State.writeKey_run (s : State) (k : Fin 16) (b : Bool) : (s.writeKey k b).run = s.run := rfl
@[simp] theorem State.writeKey_draws (s : State) (k : Fin 16) (b : Bool) : (s.writeKey k b).draws = s.draws := rfl
@[simp] theorem State.writeKey_host (s : State) (k : Fin 16) (b : Bool) : (s.writeKey k b).host = s.host := rfl
@[simp] theorem State.writeKey_params (s : State) (k : Fin 16) (b : Bool) : (s.writeKey k b).params = s.params := rfl
@[simp] theorem State.writeKey_read (s : State) (k : Fin 16) (b : Bool) (a : Nat) : (s.writeKey k b).read a = s.read a := rfl
@[simp] theorem State.writeKey_reg (s : State) (k : Fin 16) (b : Bool) (y : Reg) : (s.writeKey k b).reg y = s.reg y := rfl
@[simp] theorem State.writeKey_dataAddr (s : State) (k : Fin 16) (b : Bool) (j : Nat) : (s.writeKey k b).dataAddr j = s.dataAddr j := rfl

/-! ## tick -/

@[simp] theorem State.tick_V (s : State) : (s.tick).V = s.V := rfl
@[simp] theorem State.tick_I (s : State) : (s.tick).I = s.I := rfl
@[simp] theorem State.tick_pc (s : State) : (s.tick).pc = s.pc := rfl
@[simp] theorem State.tick_stack (s : State) : (s.tick).stack = s.stack := rfl
@[simp] theorem State.tick_sp (s : State) : (s.tick).sp = s.sp := rfl
@[simp] theorem State.tick_DT (s : State) : (s.tick).DT = countDown s.DT := rfl
@[simp] theorem State.tick_ST (s : State) : (s.tick).ST = countDown s.ST := rfl
@[simp] theorem State.tick_keys (s : State) : (s.tick).keys = s.keys := rfl
@[simp] theorem State.tick_fb (s : State) : (s.tick).fb = s.fb := rfl
@[simp] theorem State.tick_mem (s : State) : (s.tick).mem = s.mem := rfl
@[simp] theorem State.tick_run (s : State) : (s.tick).run = s.run := rfl
@[simp] theorem State.tick_draws (s : State) : (s.tick).draws = s.draws := rfl
@[simp] theorem State.tick_host (s : State) : (s.tick).host = s.host := rfl
@[simp] theorem State.tick_params (s : State) : (s.tick).params = s.params := rfl
@[simp] theorem State.tick_read (s : State) (a : Nat) : (s.tick).read a = s.read a := rfl
@[simp] theorem State.tick_reg (s : State) (y : Reg) : (s.tick).reg y = s.reg y := rfl
@[simp] theorem State.tick_dataAddr (s : State) (j : Nat) : (s.tick).dataAddr j = s.dataAddr j := rfl

/-! ## draw -/

@[simp] theorem State.draw_byte (s : State) : s.draw.1 = Config.drawByte s.draws := rfl
@[simp] theorem State.draw_V (s : State) : s.draw.2.V = s.V := rfl
@[simp] theorem State.draw_I (s : State) : s.draw.2.I = s.I := rfl
@[simp] theorem State.draw_pc (s : State) : s.draw.2.pc = s.pc := rfl
@[simp] theorem State.draw_stack (s : State) : s.draw.2.stack = s.stack := rfl
@[simp] theorem State.draw_sp (s : State) : s.draw.2.sp = s.sp := rfl
@[simp] theorem State.draw_DT (s : State) : s.draw.2.DT = s.DT := rfl
@[simp] theorem State.draw_ST (s : State) : s.draw.2.ST = s.ST := rfl
@[simp] theorem State.draw_keys (s : State) : s.draw.2.keys = s.keys := rfl
@[simp] theorem State.draw_fb (s : State) : s.draw.2.fb = s.fb := rfl
@[simp] theorem State.draw_mem (s : State) : s.draw.2.mem = s.mem := rfl
@[simp] theorem State.draw_run (s : State) : s.draw.2.run = s.run := rfl
@[simp] theorem State.draw_draws (s : State) : s.draw.2.draws = s.draws + 1 := rfl
@[simp] theorem State.draw_host (s : State) : s.draw.2.host = s.host := rfl
@[simp] theorem State.draw_params (s : State) : s.draw.2.params = s.params := rfl
@[simp] theorem State.draw_read (s : State) (a : Nat) : s.draw.2.read a = s.read a := rfl
@[simp] theorem State.draw_reg (s : State) (y : Reg) : s.draw.2.reg y = s.reg y := rfl

end Sys2Proof.Machine
end

