-- ==== Sys2Proof/Laws/Ops.lean ====
section
/-!
SUPPORT. Laws/Ops.lean: for each shared operation, once, everything it can do; the provers cite these instead of
unfolding the operation.
-/

namespace Sys2Proof.Machine

/-! ## Answers -/

theorem raise_eq (reason : HaltReason) (s : State) : raise reason s = .next (s.halt reason) := rfl

/-- Failing changes `run` and nothing else (60_exceptions.md R222). -/
theorem State.halt_eq (s : State) (reason : HaltReason) : s.halt reason = { s with run := .halted reason } := rfl

/-- A guarded access either raises with the check's reason or is done. -/
theorem guarded_cases {check : Option HaltReason} {done s t : State} (h : guarded check done s = .next t) :
    (∃ reason, check = some reason ∧ t = s.halt reason) ∨ (check = none ∧ t = done) := by
  cases check with
  | none => exact .inr ⟨rfl, by simpa [guarded] using h.symm⟩
  | some reason => exact .inl ⟨reason, rfl, by simpa [guarded, raise] using h.symm⟩

@[simp] theorem guarded_none (done s : State) : guarded none done s = .next done := rfl

@[simp] theorem guarded_some (reason : HaltReason) (done s : State) :
    guarded (some reason) done s = .next (s.halt reason) := rfl

/-! ## Window checks (20_memory.md R57) -/

theorem checkRead_eq_none {i : Word} {k : Nat} : checkRead i k = none ↔ i.toNat + k - 1 ≤ 0xFFF := by
  unfold checkRead
  split <;> simp <;> omega

theorem checkRead_eq_some {i : Word} {k : Nat} {r : HaltReason} :
    checkRead i k = some r ↔ 0xFFF < i.toNat + k - 1 ∧ r = .invalidAddress (i.toNat + k - 1) := by
  unfold checkRead
  split <;> simp [eq_comm] <;> omega

theorem checkWrite_eq_none {lo : Nat} {i : Word} {k : Nat} :
    checkWrite lo i k = none ↔ lo ≤ i.toNat ∧ i.toNat + k - 1 ≤ 0xFFF := by
  unfold checkWrite
  split_ifs <;> simp <;> omega

theorem checkWrite_eq_some {lo : Nat} {i : Word} {k : Nat} {r : HaltReason} :
    checkWrite lo i k = some r ↔
      (i.toNat < lo ∧ r = .invalidAddress i.toNat) ∨
      (lo ≤ i.toNat ∧ 0xFFF < i.toNat + k - 1 ∧ r = .invalidAddress (max i.toNat 0x1000)) := by
  unfold checkWrite
  by_cases h1 : i.toNat < lo
  · simp [h1, Nat.not_le.2 h1, eq_comm]
  · by_cases h2 : i.toNat + k - 1 > 0xFFF
    · simp [h1, h2, Nat.not_lt.1 h1, eq_comm]
    · simp [h1, h2]

/-! ## Key index (45_keys_and_timers.md R190) -/

theorem keyIndex_of_le {p : Config.KeyIndexPolicy} {v : Byte} {k : Fin 16} (h : v.toNat = k.val) :
    keyIndex p v = .ok k := by
  unfold keyIndex
  rw [dif_pos (by omega)]
  exact congrArg Except.ok (Fin.ext h)

theorem keyIndex_fault {v : Byte} (h : 15 < v.toNat) :
    keyIndex .fault v = .error (.keyIndexOutOfRange v) := by
  unfold keyIndex
  rw [dif_neg (by omega)]

theorem and_0xF_toNat (v : Byte) : (v &&& 0xF#8).toNat = v.toNat % 16 := by
  rw [BitVec.toNat_and]
  exact Nat.and_two_pow_sub_one_eq_mod v.toNat 4

theorem keyIndex_mask {v : Byte} {k : Fin 16} (h : v.toNat % 16 = k.val) : keyIndex .mask v = .ok k := by
  unfold keyIndex
  split
  · exact congrArg Except.ok (Fin.ext (by simp; omega))
  · refine congrArg Except.ok (Fin.ext ?_)
    simp only [Fin.ofNat, and_0xF_toNat]
    omega

/-- The failures of the key index are KeyIndexOutOfRange only. -/
theorem keyIndex_error {p : Config.KeyIndexPolicy} {v : Byte} {r : HaltReason} (h : keyIndex p v = .error r) :
    r = .keyIndexOutOfRange v := by
  unfold keyIndex at h
  split at h
  · cases h
  · cases p <;> cases h
    rfl

/-- A key skip either raises for the index or skips on the key's state. -/
theorem State.skipOnKey_cases {s t : State} {x : Reg} {b : Bool}
    (h : s.skipOnKey x b = .next t) :
    t = s.halt (.keyIndexOutOfRange (s.reg x)) ∨ ∃ k, t = s.skipIf (s.keys.get k == b) := by
  unfold State.skipOnKey at h
  split at h
  · rename_i r hr
    rw [keyIndex_error hr] at h
    exact .inl (by simpa [raise] using h.symm)
  · rename_i k hk
    exact .inr ⟨k, by simpa using h.symm⟩

/-! ## Operands -/

@[simp] theorem zext16_toNat (nnn : Addr12) : (zext16 nnn).toNat = nnn.toNat := by
  have := nnn.isLt
  simp only [zext16, BitVec.toNat_setWidth]
  omega

/-- Fx29's address (43_index_and_memory.md R152). -/
theorem glyphAddr_toNat (v : Byte) : (glyphAddr v).toNat = 0x050 + 5 * (v.toNat % 16) := by
  rw [glyphAddr, and_0xF_toNat, BitVec.toNat_ofNat]
  simp only [Config.fontBase]
  omega

@[simp] theorem length_bcdDigits (v : Byte) : (bcdDigits v).length = 3 := rfl

@[simp] theorem State.length_regBlock (s : State) (x : Reg) : (s.regBlock x).length = x.val + 1 := by
  simp [State.regBlock]

/-- Fx55's bytes (R154): byte j of the block is V[j]. -/
theorem State.getElem_regBlock (s : State) {x : Reg} {j : Nat} (h : j < (s.regBlock x).length) (hj : j < 16) :
    (s.regBlock x)[j] = s.reg ⟨j, hj⟩ := by
  simp [State.regBlock, State.reg, Vector.get_eq_getElem]

theorem State.dataAddr_eq (s : State) (j : Nat) : s.dataAddr j = s.I.toNat + j := rfl

/-! ## Consecutive bytes (00_scope.md R13) -/

theorem State.read_writeBytes_outside {s : State} {a b : Nat} {vs : List Byte} (h : b < a ∨ a + vs.length ≤ b) :
    (s.writeBytes a vs).read b = s.read b :=
  Memory.read_writeBytes_outside s.mem a b vs h

theorem State.read_writeBytes_inside (s : State) (a j : Nat) {vs : List Byte} (h : j < vs.length) :
    (s.writeBytes a vs).read (a + j) = vs[j] :=
  Memory.read_writeBytes_inside s.mem a j vs h

/-- Every byte outside the stored ones reads as before. -/
theorem State.read_store_outside {s : State} {b : Nat} {vs : List Byte}
    (h : b < s.I.toNat ∨ s.I.toNat + vs.length ≤ b) : (s.store vs).read b = s.read b :=
  State.read_writeBytes_outside h

/-- The stored bytes. -/
theorem State.read_store_inside (s : State) (j : Nat) {vs : List Byte} (h : j < vs.length) :
    (s.store vs).read (s.dataAddr j) = vs[j] :=
  s.read_writeBytes_inside s.I.toNat j h

/-! ## The call stack (10_state.md R31) -/

theorem State.push_of_full {s : State} (v : Word) (h : s.sp.val = 16) : s.push v = .error .stackOverflow := by
  unfold State.push
  rw [dif_neg (by omega)]

theorem State.push_of_room {s : State} (v : Word) (h : s.sp.val < 16) :
    s.push v = .ok { s with stack := s.stack.set s.sp.val v h, sp := ⟨s.sp.val + 1, by omega⟩ } := by
  unfold State.push
  rw [dif_pos h]

theorem State.pop_of_empty {s : State} (h : s.sp.val = 0) : s.pop = .error .stackUnderflow := by
  unfold State.pop
  rw [dif_pos h]

theorem State.pop_of_nonempty {s : State} {j : Fin 16} (h : s.sp.val = j.val + 1) :
    s.pop = .ok (s.stack.get j, { s with sp := ⟨j.val, by omega⟩ }) := by
  unfold State.pop
  rw [dif_neg (by omega)]
  have e : s.sp.val - 1 = j.val := by omega
  simp only [e]

/-- 2nnn with room on the stack (41_control_flow.md R102). -/
theorem execCall_of_room {s : State} (nnn : Addr12) (h : s.sp.val < 16) :
    execCall nnn s = .next { s with
      stack := s.stack.set s.sp.val s.pc h, sp := ⟨s.sp.val + 1, by omega⟩, pc := zext16 nnn } := by
  simp [execCall, State.push_of_room _ h, State.jump]

/-- 00EE with an entry on the stack (R100). -/
theorem execRet_of_nonempty {s : State} {j : Fin 16} (h : s.sp.val = j.val + 1) :
    execRet s = .next { s with sp := ⟨j.val, by omega⟩, pc := s.stack.get j } := by
  simp [execRet, State.pop_of_nonempty h, State.jump]

/-- 2nnn either raises StackOverflow or pushes and jumps. -/
theorem execCall_cases {s t : State} {nnn : Addr12} (h : execCall nnn s = .next t) :
    (s.sp.val = 16 ∧ t = s.halt .stackOverflow) ∨
    ∃ h : s.sp.val < 16, t = { s with
      stack := s.stack.set s.sp.val s.pc h, sp := ⟨s.sp.val + 1, by omega⟩, pc := zext16 nnn } := by
  by_cases hs : s.sp.val < 16
  · rw [execCall_of_room nnn hs] at h
    exact .inr ⟨hs, by simpa using h.symm⟩
  · have hs : s.sp.val = 16 := by omega
    rw [execCall, State.push_of_full _ hs] at h
    exact .inl ⟨hs, by simpa [raise] using h.symm⟩

/-- 00EE either raises StackUnderflow or pops into pc. -/
theorem execRet_cases {s t : State} (h : execRet s = .next t) :
    (s.sp.val = 0 ∧ t = s.halt .stackUnderflow) ∨
    ∃ j : Fin 16, s.sp.val = j.val + 1 ∧ t = { s with sp := ⟨j.val, by omega⟩, pc := s.stack.get j } := by
  by_cases hs : s.sp.val = 0
  · rw [execRet, State.pop_of_empty hs] at h
    exact .inl ⟨hs, by simpa [raise] using h.symm⟩
  · have hj : s.sp.val = (⟨s.sp.val - 1, by omega⟩ : Fin 16).val + 1 := by
      simp only
      omega
    rw [execRet_of_nonempty hj] at h
    exact .inr ⟨_, hj, by simpa using h.symm⟩

/-! ## Fetch (30_encoding.md R71) -/

theorem fetchable_iff {lo hi : Nat} {pc : Word} :
    fetchable lo hi pc = true ↔ lo ≤ pc.toNat ∧ pc.toNat + 1 ≤ hi := by
  simp [fetchable]

theorem State.fetch_of_legal {s : State} (h : s.params.fetchLo ≤ s.pc.toNat ∧ s.pc.toNat + 1 ≤ s.params.fetchHi) :
    s.fetch = .ok (s.wordAt s.pc.toNat) := by
  unfold State.fetch
  rw [if_pos (fetchable_iff.2 h)]
  rfl

theorem State.fetch_of_illegal {s : State}
    (h : ¬ (s.params.fetchLo ≤ s.pc.toNat ∧ s.pc.toNat + 1 ≤ s.params.fetchHi)) :
    s.fetch = .error (.invalidAddress s.pc.toNat) := by
  unfold State.fetch
  rw [if_neg (fun hf => h (fetchable_iff.1 hf))]

/-- What decodes was fetched inside the executable region. -/
theorem State.legal_of_fetchDecode {s : State} {i : Instr} (h : s.fetchDecode = .ok i) :
    (s.params.fetchLo ≤ s.pc.toNat ∧ s.pc.toNat + 1 ≤ s.params.fetchHi) ∧ decode (s.wordAt s.pc.toNat) = .ok i := by
  by_cases hl : s.params.fetchLo ≤ s.pc.toNat ∧ s.pc.toNat + 1 ≤ s.params.fetchHi
  · refine ⟨hl, ?_⟩
    unfold State.fetchDecode at h
    rw [State.fetch_of_legal hl] at h
    cases hd : decode (s.wordAt s.pc.toNat) with
    | ok j => simpa [hd] using h
    | error e => simp [hd] at h
  · unfold State.fetchDecode at h
    rw [State.fetch_of_illegal hl] at h
    cases h

theorem State.fetchDecode_of_decode {s : State} {i : Instr}
    (hl : s.params.fetchLo ≤ s.pc.toNat ∧ s.pc.toNat + 1 ≤ s.params.fetchHi)
    (h : decode (s.wordAt s.pc.toNat) = .ok i) : s.fetchDecode = .ok i := by
  unfold State.fetchDecode
  rw [State.fetch_of_legal hl]
  simp [h]

/-! ## The instruction step (30_encoding.md R70) -/

/-- Everything an instruction step can do. -/
theorem State.instructionStep_cases {s t : State} (h : s.instructionStep = .next t) :
    (s.run = .running ∧ ∃ i, s.fetchDecode = .ok i ∧ exec i s = .next t) ∨
    (s.run = .running ∧ ∃ r, s.fetchDecode = .error r ∧ t = s.halt r) ∨
    (s.run ≠ .running ∧ t = s) := by
  unfold State.instructionStep at h
  split at h
  · rename_i hr
    split at h
    · rename_i i hi
      exact .inl ⟨hr, i, hi, h⟩
    · rename_i r hi
      exact .inr (.inl ⟨hr, r, hi, by simpa [raise] using h.symm⟩)
  · rename_i hr
    exact .inr (.inr ⟨by simp [hr], by simpa using h.symm⟩)
  · rename_i hr
    exact .inr (.inr ⟨by simp [hr], by simpa using h.symm⟩)

theorem State.instructionStep_of_not_running {s : State} (h : s.run ≠ .running) : s.instructionStep = .next s := by
  unfold State.instructionStep
  split <;> simp_all

theorem State.instructionStep_of_fetchDecode {s : State} {i : Instr} (hr : s.run = .running)
    (h : s.fetchDecode = .ok i) : s.instructionStep = exec i s := by
  unfold State.instructionStep
  simp [hr, h]

theorem State.instructionStep_of_error {s : State} {r : HaltReason} (hr : s.run = .running)
    (h : s.fetchDecode = .error r) : s.instructionStep = .next (s.halt r) := by
  unfold State.instructionStep
  simp [hr, h, raise]

end Sys2Proof.Machine
end

