-- ==== Sys2Proof/Laws/HostOps.lean ====
section
/-!
SUPPORT. Laws/HostOps.lean: what each host operation and the instruction boundary can do (60_exceptions.md R240 to
R248), once, and the induction over a schedule.
-/

namespace Sys2Proof.Machine

@[simp] theorem countDown_toNat (v : Byte) : (countDown v).toNat = v.toNat - 1 := by
  have := v.isLt
  simp only [countDown, BitVec.toNat_ofNat]
  omega

/-- set_key resumes a suspended Fx0A on a key-down transition, and otherwise only writes the key (R242). -/
theorem State.setKey_cases (s : State) (k : Fin 16) (pressed : Bool) :
    (∃ x, s.run = .awaitingKey x ∧ pressed = true ∧ s.keys.get k = false ∧
      s.setKey k pressed = (s.writeKey k pressed).resume x k) ∨
    (((∀ x, s.run ≠ .awaitingKey x) ∨ pressed = false ∨ s.keys.get k = true) ∧
      s.setKey k pressed = s.writeKey k pressed) := by
  unfold State.setKey
  split
  · rename_i x hx
    by_cases hp : (pressed && !s.keys.get k) = true
    · rw [if_pos hp]
      simp only [Bool.and_eq_true, Bool.not_eq_true'] at hp
      exact .inl ⟨x, hx, hp.1, hp.2, rfl⟩
    · rw [if_neg hp]
      refine .inr ⟨.inr ?_, rfl⟩
      cases pressed <;> simp_all
  · rename_i hx
    exact .inr ⟨.inl fun x h => hx x h, rfl⟩

/-- Everything a scheduled host operation can do. -/
theorem State.applyOp_cases (s : State) (op : HostOp) :
    (op = .tick ∧ s.applyOp op = s.tick) ∨
    (∃ k : Fin 16, ∃ x, op = .setKey k.val true ∧ s.run = .awaitingKey x ∧ s.keys.get k = false ∧
      s.applyOp op = (s.writeKey k true).resume x k) ∨
    (∃ k : Fin 16, ∃ b, op = .setKey k.val b ∧
      ((∀ x, s.run ≠ .awaitingKey x) ∨ b = false ∨ s.keys.get k = true) ∧ s.applyOp op = s.writeKey k b) ∨
    ((∃ k b, op = .setKey k b ∧ 15 < k) ∧ s.applyOp op = s) ∨
    (op = .requestStop ∧ (∃ r, s.run = .halted r) ∧ s.applyOp op = s) ∨
    (op = .requestStop ∧ (∀ r, s.run ≠ .halted r) ∧ s.applyOp op = s.halt .stopped) := by
  cases op with
  | tick => exact .inl ⟨rfl, rfl⟩
  | setKey k b =>
    by_cases hk : k < 16
    · have e : s.applyOp (.setKey k b) = s.setKey ⟨k, hk⟩ b := by simp [State.applyOp, hostSetKey, hk]
      rcases s.setKey_cases ⟨k, hk⟩ b with ⟨x, hx, rfl, hu, h⟩ | ⟨hc, h⟩
      · exact .inr (.inl ⟨⟨k, hk⟩, x, rfl, hx, hu, e.trans h⟩)
      · exact .inr (.inr (.inl ⟨⟨k, hk⟩, b, rfl, hc, e.trans h⟩))
    · exact .inr (.inr (.inr (.inl ⟨⟨k, b, rfl, by omega⟩, by simp [State.applyOp, hostSetKey, hk]⟩)))
  | requestStop =>
    refine .inr (.inr (.inr (.inr ?_)))
    cases h : s.run with
    | halted r => exact .inl ⟨rfl, ⟨r, rfl⟩, by simp [State.applyOp, State.requestStop, h]⟩
    | running => exact .inr ⟨rfl, by simp, by simp [State.applyOp, State.requestStop, h]⟩
    | awaitingKey x => exact .inr ⟨rfl, by simp, by simp [State.applyOp, State.requestStop, h]⟩

/-- The induction over a schedule: what holds of one operation and is transitive holds of all. -/
theorem State.applyOps_induct {P : State → State → Prop} (refl : ∀ s, P s s)
    (trans : ∀ {s t u}, P s t → P t u → P s u) {ops : List HostOp} (one : ∀ op ∈ ops, ∀ s, P s (s.applyOp op))
    (s : State) : P s (s.applyOps ops) := by
  induction ops generalizing s with
  | nil => exact refl s
  | cons op ops ih =>
    exact trans (one op List.mem_cons_self s) (ih (fun o ho => one o (List.mem_cons_of_mem _ ho)) (s.applyOp op))

/-- The boundary: nothing scheduled, or the soonest operations applied to the state without them. -/
theorem State.boundary_cases (s : State) :
    (s.host = [] ∧ s.boundary = s) ∨
    ∃ ops rest, s.host = ops :: rest ∧ s.boundary = State.applyOps { s with host := rest } ops := by
  unfold State.boundary
  split
  · rename_i h
    exact .inl ⟨h, rfl⟩
  · rename_i ops rest h
    exact .inr ⟨ops, rest, h, rfl⟩

/-! ## Frames of the host's operations -/

@[simp] theorem State.applyOp_mem (s : State) (op : HostOp) : (s.applyOp op).mem = s.mem := by
  obtain ⟨-, h⟩ | ⟨k, x, -, -, -, h⟩ | ⟨k, b, -, -, h⟩ | ⟨-, h⟩ | ⟨-, -, h⟩ | ⟨-, -, h⟩ := s.applyOp_cases op <;>
    simp [h]

@[simp] theorem State.applyOp_I (s : State) (op : HostOp) : (s.applyOp op).I = s.I := by
  obtain ⟨-, h⟩ | ⟨k, x, -, -, -, h⟩ | ⟨k, b, -, -, h⟩ | ⟨-, h⟩ | ⟨-, -, h⟩ | ⟨-, -, h⟩ := s.applyOp_cases op <;>
    simp [h]

@[simp] theorem State.applyOp_fb (s : State) (op : HostOp) : (s.applyOp op).fb = s.fb := by
  obtain ⟨-, h⟩ | ⟨k, x, -, -, -, h⟩ | ⟨k, b, -, -, h⟩ | ⟨-, h⟩ | ⟨-, -, h⟩ | ⟨-, -, h⟩ := s.applyOp_cases op <;>
    simp [h]

@[simp] theorem State.applyOp_stack (s : State) (op : HostOp) : (s.applyOp op).stack = s.stack := by
  obtain ⟨-, h⟩ | ⟨k, x, -, -, -, h⟩ | ⟨k, b, -, -, h⟩ | ⟨-, h⟩ | ⟨-, -, h⟩ | ⟨-, -, h⟩ := s.applyOp_cases op <;>
    simp [h]

@[simp] theorem State.applyOp_sp (s : State) (op : HostOp) : (s.applyOp op).sp = s.sp := by
  obtain ⟨-, h⟩ | ⟨k, x, -, -, -, h⟩ | ⟨k, b, -, -, h⟩ | ⟨-, h⟩ | ⟨-, -, h⟩ | ⟨-, -, h⟩ := s.applyOp_cases op <;>
    simp [h]

@[simp] theorem State.applyOp_draws (s : State) (op : HostOp) : (s.applyOp op).draws = s.draws := by
  obtain ⟨-, h⟩ | ⟨k, x, -, -, -, h⟩ | ⟨k, b, -, -, h⟩ | ⟨-, h⟩ | ⟨-, -, h⟩ | ⟨-, -, h⟩ := s.applyOp_cases op <;>
    simp [h]

@[simp] theorem State.applyOp_host (s : State) (op : HostOp) : (s.applyOp op).host = s.host := by
  obtain ⟨-, h⟩ | ⟨k, x, -, -, -, h⟩ | ⟨k, b, -, -, h⟩ | ⟨-, h⟩ | ⟨-, -, h⟩ | ⟨-, -, h⟩ := s.applyOp_cases op <;>
    simp [h]

@[simp] theorem State.applyOp_params (s : State) (op : HostOp) : (s.applyOp op).params = s.params := by
  obtain ⟨-, h⟩ | ⟨k, x, -, -, -, h⟩ | ⟨k, b, -, -, h⟩ | ⟨-, h⟩ | ⟨-, -, h⟩ | ⟨-, -, h⟩ := s.applyOp_cases op <;>
    simp [h]

@[simp] theorem State.applyOps_mem (s : State) (ops : List HostOp) : (s.applyOps ops).mem = s.mem :=
  State.applyOps_induct (P := fun s t => t.mem = s.mem) (fun _ => rfl) (fun h k => k.trans h) (fun op _ s => s.applyOp_mem op) s

@[simp] theorem State.applyOps_I (s : State) (ops : List HostOp) : (s.applyOps ops).I = s.I :=
  State.applyOps_induct (P := fun s t => t.I = s.I) (fun _ => rfl) (fun h k => k.trans h) (fun op _ s => s.applyOp_I op) s

@[simp] theorem State.applyOps_fb (s : State) (ops : List HostOp) : (s.applyOps ops).fb = s.fb :=
  State.applyOps_induct (P := fun s t => t.fb = s.fb) (fun _ => rfl) (fun h k => k.trans h) (fun op _ s => s.applyOp_fb op) s

@[simp] theorem State.applyOps_stack (s : State) (ops : List HostOp) : (s.applyOps ops).stack = s.stack :=
  State.applyOps_induct (P := fun s t => t.stack = s.stack) (fun _ => rfl) (fun h k => k.trans h)
    (fun op _ s => s.applyOp_stack op) s

@[simp] theorem State.applyOps_sp (s : State) (ops : List HostOp) : (s.applyOps ops).sp = s.sp :=
  State.applyOps_induct (P := fun s t => t.sp = s.sp) (fun _ => rfl) (fun h k => k.trans h) (fun op _ s => s.applyOp_sp op) s

@[simp] theorem State.applyOps_draws (s : State) (ops : List HostOp) : (s.applyOps ops).draws = s.draws :=
  State.applyOps_induct (P := fun s t => t.draws = s.draws) (fun _ => rfl) (fun h k => k.trans h)
    (fun op _ s => s.applyOp_draws op) s

@[simp] theorem State.applyOps_host (s : State) (ops : List HostOp) : (s.applyOps ops).host = s.host :=
  State.applyOps_induct (P := fun s t => t.host = s.host) (fun _ => rfl) (fun h k => k.trans h)
    (fun op _ s => s.applyOp_host op) s

@[simp] theorem State.applyOps_params (s : State) (ops : List HostOp) : (s.applyOps ops).params = s.params :=
  State.applyOps_induct (P := fun s t => t.params = s.params) (fun _ => rfl) (fun h k => k.trans h)
    (fun op _ s => s.applyOp_params op) s

/-- The host never reaches memory (20_memory.md R66). -/
@[simp] theorem State.applyOps_read (s : State) (ops : List HostOp) (a : Nat) : (s.applyOps ops).read a = s.read a := by
  simp [State.read]

/-- The boundary never reaches memory or the parameters. -/
@[simp] theorem State.boundary_params (s : State) : s.boundary.params = s.params := by
  obtain ⟨-, h⟩ | ⟨ops, rest, -, h⟩ := s.boundary_cases <;> simp [h]

@[simp] theorem State.boundary_mem (s : State) : s.boundary.mem = s.mem := by
  obtain ⟨-, h⟩ | ⟨ops, rest, -, h⟩ := s.boundary_cases <;> simp [h]

@[simp] theorem State.boundary_read (s : State) (a : Nat) : s.boundary.read a = s.read a := by
  simp [State.read]

end Sys2Proof.Machine
end

