-- ==== Sys2Proof/Laws/PerInstr.lean ====
section
/-!
SUPPORT. Laws/PerInstr.lean: the family of statements made of each instruction as syntax: its encoding belongs to its
own row of the opcode table (30_encoding.md R74, R76).
-/

namespace Sys2Proof.Laws

/-- The encoding of `i` matches the mask and pattern of the row that carries `i`'s mnemonic. -/
def EncodeMatchesRow.Statement (i : Instr) : Prop :=
  ∃ row ∈ opcodeRows, row.mnemonic = i.mnemonic ∧ encode i &&& row.mask = row.pattern

/-! ## A format bit by bit, and under the mask of its rows -/

theorem formNNN_bit (op : BitVec 4) (a : Addr12) (k : Nat) (hk : k < 16) :
    (formNNN op a)[k] = if h : k < 12 then a[k] else op[k - 12] :=
  BitVec.getElem_append hk

theorem formXFF_bit (op : BitVec 4) (x : Reg) (f : Byte) (k : Nat) (hk : k < 16) :
    (formXFF op x f)[k] = if h : k < 8 then f[k] else if h : k < 12 then (regField x)[k - 8] else op[k - 12] := by
  rw [formXFF, BitVec.getElem_append]
  split
  · rfl
  · rw [BitVec.getElem_append]
    split <;> rename_i h <;> [rw [dif_pos (by omega)]; (rw [dif_neg (by omega)]; rfl)]

theorem formXYN_bit (op n : BitVec 4) (x y : Reg) (k : Nat) (hk : k < 16) :
    (formXYN op x y n)[k] = if h : k < 4 then n[k] else if h : k < 8 then (regField y)[k - 4]
      else if h : k < 12 then (regField x)[k - 8] else op[k - 12] := by
  rw [formXYN, BitVec.getElem_append]
  split
  · rfl
  · rw [BitVec.getElem_append]
    split <;> rename_i h
    · rw [dif_pos (by omega)]
    · rw [dif_neg (by omega), BitVec.getElem_append]
      split <;> rename_i h' <;> [(rw [dif_pos (by omega)]; rfl); (rw [dif_neg (by omega)]; rfl)]

theorem formNNN_opcode (op : BitVec 4) (a : Addr12) : formNNN op a &&& 0xF000#16 = formNNN op 0 := by
  ext k hk
  rw [BitVec.getElem_and, formNNN_bit, formNNN_bit]
  interval_cases k <;> simp

theorem formXKK_opcode (op : BitVec 4) (x : Reg) (kk : Byte) : formXKK op x kk &&& 0xF000#16 = formXKK op 0 0 := by
  ext k hk
  rw [BitVec.getElem_and, show formXKK = formXFF from rfl, formXFF_bit, formXFF_bit]
  interval_cases k <;> simp [regField]

theorem formXFF_mask (op : BitVec 4) (x : Reg) (f : Byte) : formXFF op x f &&& 0xF0FF#16 = formXFF op 0 f := by
  ext k hk
  rw [BitVec.getElem_and, formXFF_bit, formXFF_bit]
  interval_cases k <;> simp [regField]

theorem formXYN_opcode (op n : BitVec 4) (x y : Reg) : formXYN op x y n &&& 0xF000#16 = formXYN op 0 0 0 := by
  ext k hk
  rw [BitVec.getElem_and, formXYN_bit, formXYN_bit]
  interval_cases k <;> simp [regField]

theorem formXYN_mask (op n : BitVec 4) (x y : Reg) : formXYN op x y n &&& 0xF00F#16 = formXYN op 0 0 n := by
  ext k hk
  rw [BitVec.getElem_and, formXYN_bit, formXYN_bit]
  interval_cases k <;> simp [regField]

/-! ## One lemma per constructor -/

theorem EncodeMatchesRow.cls : Statement .cls :=
  ⟨⟨"CLS", 0xFFFF, 0x00E0⟩, by decide, rfl, rfl⟩

theorem EncodeMatchesRow.ret : Statement .ret :=
  ⟨⟨"RET", 0xFFFF, 0x00EE⟩, by decide, rfl, rfl⟩

theorem EncodeMatchesRow.jp (nnn : Addr12) : Statement (.jp nnn) :=
  ⟨⟨"JP", 0xF000, 0x1000⟩, by decide, rfl, formNNN_opcode _ _⟩

theorem EncodeMatchesRow.call (nnn : Addr12) : Statement (.call nnn) :=
  ⟨⟨"CALL", 0xF000, 0x2000⟩, by decide, rfl, formNNN_opcode _ _⟩

theorem EncodeMatchesRow.seVkk (x : Reg) (kk : Byte) : Statement (.seVkk x kk) :=
  ⟨⟨"SE_VK", 0xF000, 0x3000⟩, by decide, rfl, formXKK_opcode _ _ _⟩

theorem EncodeMatchesRow.sneVkk (x : Reg) (kk : Byte) : Statement (.sneVkk x kk) :=
  ⟨⟨"SNE_VK", 0xF000, 0x4000⟩, by decide, rfl, formXKK_opcode _ _ _⟩

theorem EncodeMatchesRow.seVV (x : Reg) (y : Reg) : Statement (.seVV x y) :=
  ⟨⟨"SE_VV", 0xF000, 0x5000⟩, by decide, rfl, formXYN_opcode _ _ _ _⟩

theorem EncodeMatchesRow.ldVkk (x : Reg) (kk : Byte) : Statement (.ldVkk x kk) :=
  ⟨⟨"LD_VK", 0xF000, 0x6000⟩, by decide, rfl, formXKK_opcode _ _ _⟩

theorem EncodeMatchesRow.addVkk (x : Reg) (kk : Byte) : Statement (.addVkk x kk) :=
  ⟨⟨"ADD_VK", 0xF000, 0x7000⟩, by decide, rfl, formXKK_opcode _ _ _⟩

theorem EncodeMatchesRow.ldVV (x : Reg) (y : Reg) : Statement (.ldVV x y) :=
  ⟨⟨"LD_VV", 0xF00F, 0x8000⟩, by decide, rfl, formXYN_mask _ _ _ _⟩

theorem EncodeMatchesRow.orVV (x : Reg) (y : Reg) : Statement (.orVV x y) :=
  ⟨⟨"OR", 0xF00F, 0x8001⟩, by decide, rfl, formXYN_mask _ _ _ _⟩

theorem EncodeMatchesRow.andVV (x : Reg) (y : Reg) : Statement (.andVV x y) :=
  ⟨⟨"AND", 0xF00F, 0x8002⟩, by decide, rfl, formXYN_mask _ _ _ _⟩

theorem EncodeMatchesRow.xorVV (x : Reg) (y : Reg) : Statement (.xorVV x y) :=
  ⟨⟨"XOR", 0xF00F, 0x8003⟩, by decide, rfl, formXYN_mask _ _ _ _⟩

theorem EncodeMatchesRow.addVV (x : Reg) (y : Reg) : Statement (.addVV x y) :=
  ⟨⟨"ADD_VV", 0xF00F, 0x8004⟩, by decide, rfl, formXYN_mask _ _ _ _⟩

theorem EncodeMatchesRow.subVV (x : Reg) (y : Reg) : Statement (.subVV x y) :=
  ⟨⟨"SUB", 0xF00F, 0x8005⟩, by decide, rfl, formXYN_mask _ _ _ _⟩

theorem EncodeMatchesRow.shrV (x : Reg) : Statement (.shrV x) :=
  ⟨⟨"SHR", 0xF00F, 0x8006⟩, by decide, rfl, formXYN_mask _ _ _ _⟩

theorem EncodeMatchesRow.subnVV (x : Reg) (y : Reg) : Statement (.subnVV x y) :=
  ⟨⟨"SUBN", 0xF00F, 0x8007⟩, by decide, rfl, formXYN_mask _ _ _ _⟩

theorem EncodeMatchesRow.shlV (x : Reg) : Statement (.shlV x) :=
  ⟨⟨"SHL", 0xF00F, 0x800E⟩, by decide, rfl, formXYN_mask _ _ _ _⟩

theorem EncodeMatchesRow.sneVV (x : Reg) (y : Reg) : Statement (.sneVV x y) :=
  ⟨⟨"SNE_VV", 0xF000, 0x9000⟩, by decide, rfl, formXYN_opcode _ _ _ _⟩

theorem EncodeMatchesRow.ldI (nnn : Addr12) : Statement (.ldI nnn) :=
  ⟨⟨"LD_I", 0xF000, 0xA000⟩, by decide, rfl, formNNN_opcode _ _⟩

theorem EncodeMatchesRow.jpV0 (nnn : Addr12) : Statement (.jpV0 nnn) :=
  ⟨⟨"JP_V0", 0xF000, 0xB000⟩, by decide, rfl, formNNN_opcode _ _⟩

theorem EncodeMatchesRow.rnd (x : Reg) (kk : Byte) : Statement (.rnd x kk) :=
  ⟨⟨"RND", 0xF000, 0xC000⟩, by decide, rfl, formXKK_opcode _ _ _⟩

theorem EncodeMatchesRow.drw (x : Reg) (y : Reg) (n : Nat) : Statement (.drw x y n) :=
  ⟨⟨"DRW", 0xF000, 0xD000⟩, by decide, rfl, formXYN_opcode _ _ _ _⟩

theorem EncodeMatchesRow.skp (x : Reg) : Statement (.skp x) :=
  ⟨⟨"SKP", 0xF0FF, 0xE09E⟩, by decide, rfl, formXFF_mask _ _ _⟩

theorem EncodeMatchesRow.sknp (x : Reg) : Statement (.sknp x) :=
  ⟨⟨"SKNP", 0xF0FF, 0xE0A1⟩, by decide, rfl, formXFF_mask _ _ _⟩

theorem EncodeMatchesRow.ldVDt (x : Reg) : Statement (.ldVDt x) :=
  ⟨⟨"LD_V_DT", 0xF0FF, 0xF007⟩, by decide, rfl, formXFF_mask _ _ _⟩

theorem EncodeMatchesRow.ldVKey (x : Reg) : Statement (.ldVKey x) :=
  ⟨⟨"LD_V_K", 0xF0FF, 0xF00A⟩, by decide, rfl, formXFF_mask _ _ _⟩

theorem EncodeMatchesRow.ldDtV (x : Reg) : Statement (.ldDtV x) :=
  ⟨⟨"LD_DT_V", 0xF0FF, 0xF015⟩, by decide, rfl, formXFF_mask _ _ _⟩

theorem EncodeMatchesRow.ldStV (x : Reg) : Statement (.ldStV x) :=
  ⟨⟨"LD_ST_V", 0xF0FF, 0xF018⟩, by decide, rfl, formXFF_mask _ _ _⟩

theorem EncodeMatchesRow.addIV (x : Reg) : Statement (.addIV x) :=
  ⟨⟨"ADD_I_V", 0xF0FF, 0xF01E⟩, by decide, rfl, formXFF_mask _ _ _⟩

theorem EncodeMatchesRow.ldFV (x : Reg) : Statement (.ldFV x) :=
  ⟨⟨"LD_F_V", 0xF0FF, 0xF029⟩, by decide, rfl, formXFF_mask _ _ _⟩

theorem EncodeMatchesRow.ldBV (x : Reg) : Statement (.ldBV x) :=
  ⟨⟨"LD_B_V", 0xF0FF, 0xF033⟩, by decide, rfl, formXFF_mask _ _ _⟩

theorem EncodeMatchesRow.ldMiV (x : Reg) : Statement (.ldMiV x) :=
  ⟨⟨"LD_MI_V", 0xF0FF, 0xF055⟩, by decide, rfl, formXFF_mask _ _ _⟩

theorem EncodeMatchesRow.ldVMi (x : Reg) : Statement (.ldVMi x) :=
  ⟨⟨"LD_V_MI", 0xF0FF, 0xF065⟩, by decide, rfl, formXFF_mask _ _ _⟩

end Sys2Proof.Laws
end

