-- ==== Sys2Proof/Laws/Raster.lean ====
section
/-!
SUPPORT. Laws/Raster.lean: what the rasterizer of 44_display.md does.  The loop of R171 flips the list of points the
sprite covers; the points are distinct (R175), so each listed pixel is flipped once, and a collision is a listed pixel
that was lit before the draw (R173).
-/

namespace Sys2Proof.Machine

/-! ## One pixel -/

/-- A flip, seen through every pixel. -/
@[simp] theorem Framebuffer.pixel_flip (fb : Framebuffer) (r r' : Fin 32) (c c' : Fin 64) :
    (fb.flip r c).pixel r' c' = if (r', c') = (r, c) then !fb.pixel r c else fb.pixel r' c' := by
  have key : (fb.flip r c).pixel r' c' =
      (if r.val = r'.val then (fb.get r).set c.val (!fb.pixel r c) c.isLt else fb.get r').get c' := by
    simp only [Framebuffer.flip, Framebuffer.pixel, Vector.get_eq_getElem, Vector.getElem_set]
  rw [key]
  by_cases hr : r.val = r'.val
  · have hr := Fin.ext hr
    subst hr
    by_cases hc : c.val = c'.val
    · have hc := Fin.ext hc
      subst hc
      simp [Vector.get_eq_getElem]
    · simp [Vector.get_eq_getElem, hc, Framebuffer.pixel, Fin.ext_iff, Ne.symm hc]
  · simp [hr, Framebuffer.pixel, Fin.ext_iff, Ne.symm hr]

@[simp] theorem Framebuffer.pixel_clear (r : Fin 32) (c : Fin 64) : Framebuffer.clear.pixel r c = false := by
  simp [Framebuffer.clear, Framebuffer.pixel, Vector.get_eq_getElem]

/-! ## A list of points -/

/-- Flipping a list of points, one after the other. -/
def Raster.flipAll (d : Raster) (ps : List (Fin 32 × Fin 64)) : Raster := ps.foldl (fun d p => d.flip p.1 p.2) d

@[simp] theorem Raster.flipAll_nil (d : Raster) : d.flipAll [] = d := rfl

@[simp] theorem Raster.flipAll_cons (d : Raster) (p : Fin 32 × Fin 64) (ps : List (Fin 32 × Fin 64)) :
    d.flipAll (p :: ps) = (d.flip p.1 p.2).flipAll ps := rfl

theorem Raster.flipAll_append (d : Raster) (ps qs : List (Fin 32 × Fin 64)) :
    d.flipAll (ps ++ qs) = (d.flipAll ps).flipAll qs := by
  simp [Raster.flipAll]

/-- Distinct points: each listed pixel is flipped once, every other pixel keeps its value. -/
theorem Raster.pixel_flipAll {ps : List (Fin 32 × Fin 64)} (h : ps.Nodup) (d : Raster) (r : Fin 32) (c : Fin 64) :
    (d.flipAll ps).fb.pixel r c = if (r, c) ∈ ps then !d.fb.pixel r c else d.fb.pixel r c := by
  induction ps generalizing d with
  | nil => simp
  | cons p ps ih =>
    obtain ⟨hp, hps⟩ := List.nodup_cons.1 h
    rw [Raster.flipAll_cons, ih hps]
    simp only [Raster.flip, Framebuffer.pixel_flip, List.mem_cons]
    by_cases h1 : (r, c) = p
    · have h2 : (r, c) ∉ ps := h1 ▸ hp
      subst h1
      simp [h2]
    · simp [h1]

/-- Distinct points: a collision is a listed pixel that was lit before. -/
theorem Raster.collision_flipAll {ps : List (Fin 32 × Fin 64)} (h : ps.Nodup) (d : Raster) :
    (d.flipAll ps).collision = (d.collision || ps.any fun p => d.fb.pixel p.1 p.2) := by
  induction ps generalizing d with
  | nil => simp
  | cons p ps ih =>
    obtain ⟨hp, hps⟩ := List.nodup_cons.1 h
    rw [Raster.flipAll_cons, ih hps]
    have same : (ps.any fun q => (d.fb.flip p.1 p.2).pixel q.1 q.2) = ps.any fun q => d.fb.pixel q.1 q.2 := by
      rw [Bool.eq_iff_iff, List.any_eq_true, List.any_eq_true]
      refine exists_congr fun q => and_congr_right fun hq => ?_
      rw [Framebuffer.pixel_flip, if_neg]
      intro hqp
      have hqp : q = p := hqp
      exact hp (hqp ▸ hq)
    simp only [Raster.flip, same, List.any_cons, Bool.or_assoc]

/-! ## The points of a sprite -/

/-- The points one byte covers. -/
def bytePoints (row : Fin 32) (cx : Nat) (b : Byte) : List (Fin 32 × Fin 64) :=
  ((List.range 8).filter fun k => spriteBit b k).map fun k => (row, wrapCol (cx + k))

/-- The points the rows of a sprite cover. -/
def rowPoints (cx cy : Nat) : List Byte → List (Fin 32 × Fin 64)
  | [] => []
  | b :: bs => bytePoints (wrapRow cy) cx b ++ rowPoints cx (cy + 1) bs

theorem Raster.byte_eq_flipAll (d : Raster) (row : Fin 32) (cx : Nat) (b : Byte) :
    d.byte row cx b = d.flipAll (bytePoints row cx b) := by
  rw [Raster.byte, Raster.flipAll, bytePoints, List.foldl_map, List.foldl_filter]

theorem Raster.rows_eq_flipAll (d : Raster) (cx cy : Nat) (bs : List Byte) :
    d.rows cx cy bs = d.flipAll (rowPoints cx cy bs) := by
  induction bs generalizing d cy with
  | nil => rfl
  | cons b bs ih => rw [Raster.rows, ih, rowPoints, Raster.flipAll_append, Raster.byte_eq_flipAll]

theorem mem_bytePoints {row r : Fin 32} {cx : Nat} {b : Byte} {c : Fin 64} :
    (r, c) ∈ bytePoints row cx b ↔ r = row ∧ ∃ k < 8, c.val = (cx + k) % 64 ∧ spriteBit b k = true := by
  simp only [bytePoints, List.mem_map, List.mem_filter, List.mem_range, Prod.mk.injEq, wrapCol, Fin.ext_iff,
    Fin.ofNat]
  constructor
  · rintro ⟨k, ⟨hk, hb⟩, hr, hc⟩
    exact ⟨hr.symm, k, hk, hc.symm, hb⟩
  · rintro ⟨hr, k, hk, hc, hb⟩
    exact ⟨k, ⟨hk, hb⟩, hr.symm, hc.symm⟩

theorem mem_rowPoints {cx cy : Nat} {bs : List Byte} {r : Fin 32} {c : Fin 64} :
    (r, c) ∈ rowPoints cx cy bs ↔
      ∃ j k : Nat, ∃ h : j < bs.length, k < 8 ∧ r.val = (cy + j) % 32 ∧ c.val = (cx + k) % 64 ∧
        spriteBit bs[j] k = true := by
  induction bs generalizing cy with
  | nil => simp [rowPoints]
  | cons b bs ih =>
    rw [rowPoints, List.mem_append, mem_bytePoints, ih]
    constructor
    · rintro (⟨hr, k, hk, hc, hb⟩ | ⟨j, k, hj, hk, hr, hc, hb⟩)
      · exact ⟨0, k, by simp, hk, by simp [hr, wrapRow, Fin.ofNat], hc, hb⟩
      · exact ⟨j + 1, k, by simpa using hj, hk, by rw [hr]; congr 1; omega, hc, by simpa using hb⟩
    · rintro ⟨j, k, hj, hk, hr, hc, hb⟩
      cases j with
      | zero => exact .inl ⟨Fin.ext (by simpa [wrapRow, Fin.ofNat] using hr), k, hk, hc, by simpa using hb⟩
      | succ j =>
        exact .inr ⟨j, k, by simpa using hj, hk, by rw [hr]; congr 1; omega, hc, by simpa using hb⟩

theorem nodup_bytePoints (row : Fin 32) (cx : Nat) (b : Byte) : (bytePoints row cx b).Nodup := by
  refine List.Nodup.map_on ?_ (List.nodup_range.filter _)
  intro j hj k hk h
  simp only [List.mem_filter, List.mem_range] at hj hk
  simp only [Prod.mk.injEq, wrapCol, Fin.ext_iff, Fin.ofNat, true_and] at h
  omega

/-- R175: a sprite of at most 32 rows covers no pixel twice. -/
theorem nodup_rowPoints (cx cy : Nat) {bs : List Byte} (h : bs.length ≤ 32) : (rowPoints cx cy bs).Nodup := by
  induction bs generalizing cy with
  | nil => simp [rowPoints]
  | cons b bs ih =>
    rw [List.length_cons] at h
    refine List.Nodup.append (nodup_bytePoints _ _ _) (ih (cy + 1) (by omega)) ?_
    rintro ⟨r, c⟩ h1 h2
    obtain ⟨hr, -⟩ := mem_bytePoints.1 h1
    obtain ⟨j, k, hj, -, hr', -⟩ := mem_rowPoints.1 h2
    rw [hr] at hr'
    simp only [wrapRow, Fin.ofNat] at hr'
    omega

/-! ## The draw of Dxyn -/

/-- The points Dxyn flips. -/
def State.drawPoints (s : State) (x y : Reg) (n : Nat) : List (Fin 32 × Fin 64) :=
  rowPoints (spriteCol (s.reg x)) (spriteRow (s.reg y)) (s.sprite n)

theorem State.nodup_drawPoints (s : State) (x y : Reg) {n : Nat} (h : n ≤ 32) : (s.drawPoints x y n).Nodup :=
  nodup_rowPoints _ _ (by simpa [State.sprite] using h)

/-- The flipped points are those the claims' `SpriteCovers` names. -/
theorem State.mem_drawPoints {s : State} {x y : Reg} {n : Nat} {r : Fin 32} {c : Fin 64} :
    (r, c) ∈ s.drawPoints x y n ↔ s.SpriteCovers x y n r c := by
  simp only [State.drawPoints, mem_rowPoints, State.SpriteCovers, State.sprite, Memory.length_readBytes,
    Memory.getElem_readBytes, spriteBit, spriteCol, spriteRow, State.dataAddr, State.read, Nat.add_zero,
    exists_prop]

/-- Every pixel after the draw. -/
theorem State.pixel_raster (s : State) (x y : Reg) {n : Nat} (h : n ≤ 32) (r : Fin 32) (c : Fin 64) :
    (s.raster x y n).fb.pixel r c =
      if (r, c) ∈ s.drawPoints x y n then !s.fb.pixel r c else s.fb.pixel r c := by
  rw [State.raster, Raster.rows_eq_flipAll]
  exact Raster.pixel_flipAll (s.nodup_drawPoints x y h) _ r c

/-- The collision of the draw. -/
theorem State.collision_raster (s : State) (x y : Reg) {n : Nat} (h : n ≤ 32) :
    (s.raster x y n).collision = (s.drawPoints x y n).any fun p => s.fb.pixel p.1 p.2 := by
  rw [State.raster, Raster.rows_eq_flipAll]
  exact (Raster.collision_flipAll (s.nodup_drawPoints x y h) _).trans (Bool.false_or _)

end Sys2Proof.Machine
end

