-- ==== Sys2Proof/Tests/Slice0.lean ====
section
/-!
SUPPORT. Tests/Slice0.lean: words written out from spec/30_encoding.md R73 to R76 and opcode_table.json, small steps
whose expected results are those of spec/95_test_vectors.md (each test names its vector), and for each obligation with
hypotheses a state and operands that meet them.
-/

namespace Sys2Proof.Tests

open Machine

/-! ## Builders -/

/-- The reset state with some registers set. -/
def regs (vs : List (Reg × Byte)) : State := vs.foldl (fun s v => s.setReg v.1 v.2) State.reset

/-- The same, with I set. -/
def regsI (i : Word) (vs : List (Reg × Byte)) : State := (regs vs).setI i

/-- Bytes at an address. -/
def withBytes (a : Nat) (bs : List Byte) (s : State) : State := s.writeBytes a bs

/-- A program at 0x200 in the reset state. -/
def prog (bs : List Byte) : State := withBytes 0x200 bs State.reset

/-- The same machine with other parameters. -/
def machine (p : Config.Params) (s : State) : State := { s with params := p }

/-- The same machine with the key-index policy `mask`. -/
def masking (s : State) : State := machine { s.params with keyIndexPolicy := .mask } s

/-- One pixel lit. -/
def lit (r : Fin 32) (c : Fin 64) (s : State) : State := s.setFb (s.fb.flip r c)

/-- The stack pointer set, every entry holding `a`. -/
def stacked (sp : Fin 17) (a : Word) (s : State) : State := { s with sp := sp, stack := Vector.replicate 16 a }

/-- What is read of the next state; nothing where the step answers no next state. -/
def see {α : Type} (r : Result) (f : State → α) : Option α :=
  match r with
  | .next t => some (f t)
  | .fault _ => none
  | .refused _ => none

/-- The usual readings: a register, VF and pc. -/
def seeX (x : Reg) (r : Result) : Option (Byte × Byte × Word) := see r fun t => (t.reg x, t.reg VF, t.pc)

/-- The run state and pc. -/
def seeRun (r : Result) : Option (RunState × Word) := see r fun t => (t.run, t.pc)

/-! ## Well-formedness: the one check, refused and at its bound -/

theorem test_wf_refuses_sixteen_rows : (Instr.drw 0 0 16).wf = false := by decide
theorem test_wf_accepts_fifteen_rows : (Instr.drw 0 0 15).wf = true := by decide

/-! ## Decoding, one written-out word for each constructor (R73, R74, R76) -/

theorem test_decode_cls : decode 0b0000_0000_1110_0000#16 = .ok .cls := by decide
theorem test_decode_ret : decode 0b0000_0000_1110_1110#16 = .ok .ret := by decide
theorem test_decode_jp : decode 0b0001_1010_1011_1100#16 = .ok (.jp 0xABC) := by decide
theorem test_decode_call : decode 0b0010_0011_0000_0001#16 = .ok (.call 0x301) := by decide
theorem test_decode_seVkk : decode 0b0011_1111_0000_0001#16 = .ok (.seVkk 15 0x01) := by decide
theorem test_decode_sneVkk : decode 0b0100_0011_1000_0101#16 = .ok (.sneVkk 3 0x85) := by decide
theorem test_decode_seVV : decode 0b0101_0001_0010_0001#16 = .ok (.seVV 1 2) := by decide
theorem test_decode_ldVkk : decode 0b0110_1010_0100_0010#16 = .ok (.ldVkk 10 0x42) := by decide
theorem test_decode_addVkk : decode 0b0111_0011_0000_1010#16 = .ok (.addVkk 3 0x0A) := by decide
theorem test_decode_ldVV : decode 0b1000_0001_0010_0000#16 = .ok (.ldVV 1 2) := by decide
theorem test_decode_orVV : decode 0b1000_0001_0010_0001#16 = .ok (.orVV 1 2) := by decide
theorem test_decode_andVV : decode 0b1000_0001_0010_0010#16 = .ok (.andVV 1 2) := by decide
theorem test_decode_xorVV : decode 0b1000_0001_0010_0011#16 = .ok (.xorVV 1 2) := by decide
theorem test_decode_addVV : decode 0b1000_0001_0010_0100#16 = .ok (.addVV 1 2) := by decide
theorem test_decode_subVV : decode 0b1000_0001_0010_0101#16 = .ok (.subVV 1 2) := by decide
theorem test_decode_shrV : decode 0b1000_0001_0101_0110#16 = .ok (.shrV 1) := by decide
theorem test_decode_subnVV : decode 0b1000_0001_0010_0111#16 = .ok (.subnVV 1 2) := by decide
theorem test_decode_shlV : decode 0b1000_0001_0010_1110#16 = .ok (.shlV 1) := by decide
theorem test_decode_sneVV : decode 0b1001_0001_0010_0001#16 = .ok (.sneVV 1 2) := by decide
theorem test_decode_ldI : decode 0b1010_0001_0010_0011#16 = .ok (.ldI 0x123) := by decide
theorem test_decode_jpV0 : decode 0b1011_1111_1111_1111#16 = .ok (.jpV0 0xFFF) := by decide
theorem test_decode_rnd : decode 0b1100_0001_0000_1111#16 = .ok (.rnd 1 0x0F) := by decide
theorem test_decode_drw : decode 0b1101_0001_0010_1111#16 = .ok (.drw 1 2 15) := by decide
theorem test_decode_skp : decode 0b1110_0010_1001_1110#16 = .ok (.skp 2) := by decide
theorem test_decode_sknp : decode 0b1110_0010_1010_0001#16 = .ok (.sknp 2) := by decide
theorem test_decode_ldVDt : decode 0b1111_0011_0000_0111#16 = .ok (.ldVDt 3) := by decide
theorem test_decode_ldVKey : decode 0b1111_0001_0000_1010#16 = .ok (.ldVKey 1) := by decide
theorem test_decode_ldDtV : decode 0b1111_0011_0001_0101#16 = .ok (.ldDtV 3) := by decide
theorem test_decode_ldStV : decode 0b1111_0011_0001_1000#16 = .ok (.ldStV 3) := by decide
theorem test_decode_addIV : decode 0b1111_0001_0001_1110#16 = .ok (.addIV 1) := by decide
theorem test_decode_ldFV : decode 0b1111_0001_0010_1001#16 = .ok (.ldFV 1) := by decide
theorem test_decode_ldBV : decode 0b1111_0100_0011_0011#16 = .ok (.ldBV 4) := by decide
theorem test_decode_ldMiV : decode 0b1111_1111_0101_0101#16 = .ok (.ldMiV 15) := by decide
theorem test_decode_ldVMi : decode 0b1111_0010_0110_0101#16 = .ok (.ldVMi 2) := by decide

/-- Words of R77. -/
theorem test_decode_illegal :
    decode 0x0123 = .error (.invalidInstruction 0x0123) ∧ decode 0x8008 = .error (.invalidInstruction 0x8008) ∧
    decode 0x800F = .error (.invalidInstruction 0x800F) ∧ decode 0xE000 = .error (.invalidInstruction 0xE000) ∧
    decode 0xF0FF = .error (.invalidInstruction 0xF0FF) := by decide

theorem test_decodeTableWord : decodeTableWord 16 0xD12F = some (.drw 1 2 15) ∧ decodeTableWord 16 0xFFFF = none := by
  decide

/-! ## Fetch (vectors S11, TE9 to TE12) -/

theorem test_S11_illegal_word_halts : seeRun (step (prog [0xFF, 0xFF])) =
    some (.halted (.invalidInstruction 0xFFFF), 0x200) := by decide
theorem test_TE9_fetch_below_window : seeRun (step (State.reset.jump 0x1FE)) =
    some (.halted (.invalidAddress 0x1FE), 0x1FE) := by decide
theorem test_TE10_fetch_at_last_byte : seeRun (step (State.reset.jump 0xFFF)) =
    some (.halted (.invalidAddress 0xFFF), 0xFFF) := by decide
theorem test_TE11_fetch_last_word : seeX 10 (step (withBytes 0xFFE [0x6A, 0x01] (State.reset.jump 0xFFE))) =
    some (1, 0, 0x1000) := by decide
theorem test_TE12_fetch_odd : seeX 0 (step (withBytes 0x201 [0x60, 0x07] (State.reset.jump 0x201))) =
    some (7, 0, 0x203) := by decide

/-- A placed word is fetched and run, whatever halted the state before. -/
theorem test_withFetchWord_runs : seeX 10 (step ((State.reset.halt .stopped).withFetchWord 16 0x6A42)) =
    some (0x42, 0, 0x202) := by decide
theorem test_withFetchWord_from_bad_pc : seeX 10 (step ((State.reset.jump 0x1FF).withFetchWord 16 0x6A42)) =
    some (0x42, 0, 0x202) := by decide

/-! ## Control flow -/

theorem test_TF1_ret_underflow : seeRun (exec .ret State.reset) = some (.halted .stackUnderflow, 0x200) := by decide
theorem test_TF2_ret : see (exec .ret (stacked 3 0x246 State.reset)) (fun t => (t.pc, t.sp.val, t.stack.get 2)) =
    some (0x246, 2, 0x246) := by decide
theorem test_TF4_jp : seeRun (exec (.jp 0xFFF) State.reset) = some (.running, 0xFFF) := by decide
theorem test_TF5_call : see (exec (.call 0xABC) (stacked 15 0 State.reset))
    (fun t => (t.pc, t.sp.val, t.stack.get 15, t.stack.get 14)) = some (0xABC, 16, 0x200, 0) := by decide
theorem test_TF6_call_overflow : seeRun (exec (.call 0xABC) (stacked 16 0 State.reset)) =
    some (.halted .stackOverflow, 0x200) := by decide
theorem test_TF7_se : seeRun (exec (.seVkk 15 1) (regs [(15, 1)])) = some (.running, 0x204) := by decide
theorem test_TF8_se_past_the_end : seeRun (exec (.seVkk 0 0) (State.reset.jump 0xFFE)) =
    some (.running, 0x1002) := by decide
theorem test_TF9_sne_equal : seeRun (exec (.sneVkk 3 5) (regs [(3, 5)])) = some (.running, 0x202) := by decide
theorem test_TF9_sne_different : seeRun (exec (.sneVkk 3 5) (regs [(3, 6)])) = some (.running, 0x204) := by decide
theorem test_TE6_se_ignores_nibble : seeRun (step (prog [0x51, 0x21])) = some (.running, 0x204) := by decide
theorem test_se_registers_differ : seeRun (exec (.seVV 1 2) (regs [(2, 1)])) = some (.running, 0x202) := by decide
theorem test_TE7_sne_registers : seeRun (exec (.sneVV 1 2) (regs [(1, 1)])) = some (.running, 0x204) := by decide
theorem test_TF11_sne_same : seeRun (exec (.sneVV 1 1) (regs [(1, 9)])) = some (.running, 0x202) := by decide
theorem test_TF12_jpV0 : seeRun (exec (.jpV0 0xFFF) (regs [(0, 0xFF)])) = some (.running, 0x10FE) := by decide
theorem test_TF13_jpV0_uses_V0 : seeRun (exec (.jpV0 0x300) (regs [(0, 0x10), (3, 0x77)])) =
    some (.running, 0x310) := by decide

/-! ## ALU -/

theorem test_TA1_ld : seeX 10 (exec (.ldVkk 10 0x42) State.reset) = some (0x42, 0, 0x202) := by decide
theorem test_S1_add_immediate : seeX 3 (exec (.addVkk 3 10) (regs [(3, 250), (15, 0x5A)])) =
    some (4, 0x5A, 0x202) := by decide
theorem test_TA2_add_immediate_VF : seeX 15 (exec (.addVkk 15 0xFF) (regs [(15, 1)])) = some (0, 0, 0x202) := by decide
theorem test_TA4_assign : seeX 1 (exec (.ldVV 1 2) (regs [(2, 0x33)])) = some (0x33, 0, 0x202) := by decide
theorem test_TA5_or : seeX 1 (exec (.orVV 1 2) (regs [(1, 0xF0), (2, 0x0F), (15, 1)])) =
    some (0xFF, 1, 0x202) := by decide
theorem test_TA6_and : seeX 1 (exec (.andVV 1 2) (regs [(1, 0xF0), (2, 0x3C)])) = some (0x30, 0, 0x202) := by decide
theorem test_TA7_xor : seeX 1 (exec (.xorVV 1 1) (regs [(1, 0x5A)])) = some (0, 0, 0x202) := by decide
theorem test_xor : seeX 1 (exec (.xorVV 1 2) (regs [(1, 0xF0), (2, 0x3C)])) = some (0xCC, 0, 0x202) := by decide
theorem test_TA9_add_no_carry : seeX 1 (exec (.addVV 1 2) (regs [(1, 0xFE), (2, 1), (15, 1)])) =
    some (0xFF, 0, 0x202) := by decide
theorem test_TA10_add_into_VF : seeX 15 (exec (.addVV 15 1) (regs [(15, 0x80), (1, 0x90)])) =
    some (0x10, 0x10, 0x202) := by decide
theorem test_S4_sub_borrow : seeX 1 (exec (.subVV 1 2) (regs [(1, 5), (2, 10), (15, 1)])) =
    some (251, 0, 0x202) := by decide
theorem test_TA12_sub_equal : seeX 1 (exec (.subVV 1 2) (regs [(1, 7), (2, 7)])) = some (0, 1, 0x202) := by decide
theorem test_TA15_shr : seeX 1 (exec (.shrV 1) (regs [(1, 0x81)])) = some (0x40, 1, 0x202) := by decide
theorem test_TA17_shr_VF : seeX 15 (exec (.shrV 15) (regs [(15, 3)])) = some (1, 1, 0x202) := by decide
theorem test_TA18_subn_borrow : seeX 1 (exec (.subnVV 1 2) (regs [(1, 0x0A), (2, 5), (15, 1)])) =
    some (0xFB, 0, 0x202) := by decide
theorem test_TA21_subn_reads_old_VF : seeX 1 (exec (.subnVV 1 15) (regs [(1, 3), (15, 1)])) =
    some (0xFE, 0, 0x202) := by decide
theorem test_TA22_shl : seeX 1 (exec (.shlV 1) (regs [(1, 0x81)])) = some (2, 1, 0x202) := by decide
theorem test_TA23_shl_no_carry : seeX 1 (exec (.shlV 1) (regs [(1, 0x40), (15, 1)])) = some (0x80, 0, 0x202) := by decide

/-- TA25: kk = 0 masks every draw. -/
theorem test_TA25_rnd_masked : seeX 0 (exec (.rnd 0 0) (regs [(0, 9)])) = some (0, 0, 0x202) := by
  simp only [seeX, see, exec, execRnd, State.draw, BitVec.ofNat_eq_ofNat, BitVec.and_zero]
  decide

/-! ## Index register and memory -/

theorem test_TM1_ldI : see (exec (.ldI 0x123) State.reset) (fun t => (t.I, t.pc)) = some (0x123, 0x202) := by decide
theorem test_TM2_addI_wraps : see (exec (.addIV 1) (regsI 0xFFFF [(1, 2), (15, 9)])) (fun t => (t.I, t.reg 15)) =
    some (1, 9) := by decide
theorem test_TM3_addI_no_check : see (exec (.addIV 1) (regsI 0xFFF [(1, 1)])) (fun t => (t.I, t.run)) =
    some (0x1000, .running) := by decide
theorem test_S13_font_address : see (exec (.ldFV 0) (regs [(0, 0xF)])) (fun t => t.I) = some 0x09B := by decide
theorem test_TM4_font_low_nibble : see (exec (.ldFV 1) (regs [(1, 0x1A)])) (fun t => t.I) = some 0x082 := by decide
theorem test_S10_bcd : see (exec (.ldBV 4) (regsI 0x300 [(4, 156)])) (fun t => (t.mem.readBytes t.params.font 0x300 3, t.I)) =
    some ([1, 5, 6], 0x300) := by decide
theorem test_TM7_bcd_past_the_end : seeRun (exec (.ldBV 1) (regsI 0xFFE [])) =
    some (.halted (.invalidAddress 0x1000), 0x200) := by decide
theorem test_TM10_store_all : see (exec (.ldMiV 15) (regsI 0xFF0 [(0, 1), (15, 2)]))
    (fun t => (t.read 0xFEF, t.read 0xFF0, t.read 0xFFF, t.I)) = some (0, 1, 2, 0xFF0) := by decide
theorem test_TM9_store_protected : seeRun (exec (.ldMiV 1) (regsI 0x1FF [])) =
    some (.halted (.invalidAddress 0x1FF), 0x200) := by decide
theorem test_TM13_load_glyph : see (exec (.ldVMi 2) (regsI 0x050 [(3, 7)]))
    (fun t => (t.reg 0, t.reg 1, t.reg 2, t.reg 3)) = some (0xF0, 0x90, 0x90, 7) := by decide
theorem test_TM14_load_past_the_end : seeRun (exec (.ldVMi 15) (regsI 0xFF1 [])) =
    some (.halted (.invalidAddress 0x1000), 0x200) := by decide

/-! ## Display -/

theorem test_TX8_cls : see (exec .cls (lit 5 7 State.reset)) (fun t => (t.fb.pixel 5 7, t.pc)) =
    some (false, 0x202) := by decide
theorem test_TX2_draw_out_of_range : seeRun (exec (.drw 1 2 1) (regsI 0x1000 [])) =
    some (.halted (.invalidAddress 0x1000), 0x200) := by decide
theorem test_TX5_collision : see (exec (.drw 1 2 1) (withBytes 0x300 [0xC0] (lit 0 1 (regsI 0x300 []))))
    (fun t => (t.fb.pixel 0 0, t.fb.pixel 0 1, t.reg VF)) = some (true, false, 1) := by decide

/-- S8, the source's own test of R175: from a dark screen the second equal draw restores the screen and collides. -/
theorem test_S8_draw_twice_over_a_dark_screen :
    (let s := withBytes 0x300 [0xF0] (regsI 0x300 [(1, 8)]);
      see (exec (.drw 1 2 1) s) fun t => (t.fb.pixel 0 11, t.reg VF,
        see (exec (.drw 1 2 1) t) fun u => (u.fb.pixel 0 11, u.reg VF))) =
    some (true, 0, some (false, 1)) := by decide

/-- Log entry 18: over a lit pixel the first draw collides and the second, drawing on a dark screen, does not. -/
theorem test_draw_twice_over_a_lit_pixel :
    (let s := withBytes 0x300 [0x80] (lit 0 0 (regsI 0x300 []));
      see (exec (.drw 1 2 1) s) fun t => (t.reg VF, see (exec (.drw 1 2 1) t) fun u => (u.reg VF, u.fb.pixel 0 0))) =
    some (1, some (0, true)) := by decide

/-! ## Keys and timers -/

theorem test_TK1_skp : seeRun (exec (.skp 2) ((regs [(2, 7)]).writeKey 7 true)) = some (.running, 0x204) := by decide
theorem test_TK3_skp_index : seeRun (exec (.skp 1) (regs [(1, 0x10)])) =
    some (.halted (.keyIndexOutOfRange 0x10), 0x200) := by decide
theorem test_TK2_sknp : seeRun (exec (.sknp 2) ((regs [(2, 7)]).writeKey 7 true)) = some (.running, 0x202) := by decide
theorem test_TK4_read_DT : seeX 3 (exec (.ldVDt 3) (State.reset.setDT 0x3C)) = some (0x3C, 0, 0x202) := by decide
theorem test_wait_suspends : seeRun (exec (.ldVKey 1) State.reset) = some (.awaitingKey 1, 0x200) := by decide
theorem test_S14_resume : (((State.reset.suspend 1).setKey 0xB true).reg 1, ((State.reset.suspend 1).setKey 0xB true).pc,
    ((State.reset.suspend 1).setKey 0xB true).run) = (0x0B, 0x202, .running) := by decide
theorem test_TK5_held_key_does_not_resume : ((State.reset.writeKey 5 true).suspend 1).setKey 5 true =
    (State.reset.writeKey 5 true).suspend 1 := by decide
theorem test_TK8_write_DT : see (exec (.ldDtV 3) (regs [(3, 0x3C)])) (fun t => t.tick.tick.DT) = some 0x3A := by decide
theorem test_TK10_write_ST : see (exec (.ldStV 3) (regs [(3, 1)])) (fun t => (t.tone, t.tick.ST, t.tick.tone)) =
    some (true, 0, false) := by decide
theorem test_TK9_tick_clamps : State.reset.tick.DT = 0 := by decide
theorem test_TK12_first_reason_kept : ((State.reset.halt .stackOverflow).requestStop).run =
    .halted .stackOverflow := by decide

/-! ## Other parameters (00_scope.md R9) -/

/-- TK3: under the policy `mask`, key 0 is read. -/
theorem test_TK3_skp_masks : seeRun (exec (.skp 1) ((masking (regs [(1, 0x10)])).writeKey 0 true)) =
    some (.running, 0x204) := by decide

/-- D1: with FETCH_HI at the end of a two-byte image, the next word is outside the executable region. -/
theorem test_fetch_outside_image : seeRun (step (machine { defaultParams with fetchHi := 0x201 }
    (withBytes 0x200 [0x6A, 1, 0x6A, 1] (State.reset.jump 0x202)))) =
    some (.halted (.invalidAddress 0x202), 0x202) := by decide

/-- Another FONT is what reset memory holds. -/
theorem test_reset_holds_the_font :
    (State.resetWith { defaultParams with font := Vector.replicate 16 (Vector.replicate 5 0x80) }).read 0x09F = 0x80 := by
  decide

/-! ## Reset -/

theorem test_reset_memory_wf : State.reset.mem.wf font = true := by decide

/-- R46: every font byte has a zero low nibble. -/
theorem test_font_low_nibbles : ∀ (d : Fin 16) (j : Fin 5), (font.get d).get j &&& 0x0F = 0 := by decide

theorem test_default_params_wf : defaultParams.wf = true := by decide

/-! ## Witnesses: for each obligation with hypotheses, a state and operands that meet them all

A clause of a statement that speaks of a range has its witness at the range's bounds. -/

/-- A step's or an instruction's answer is a next state with a property. -/
def Next (r : Result) (p : State → Prop) : Prop := ∃ t, r = .next t ∧ p t

theorem witness_DecodeOfEncodeIsTheInstruction : (Instr.drw 15 15 15).wf = true ∧ (Instr.drw 0 0 0).wf = true := by
  decide

theorem witness_DecodedWordLiesInItsOwnRowOnly : decode 0xD12F = .ok (.drw 1 2 15) := by decide

theorem witness_IllegalWordsAreExactlyTheListedOnes :
    (prog [0xFF, 0xFF]).run = .running ∧ (prog [0xFF, 0xFF]).fetch = .ok 0xFFFF ∧
    decode 0xFFFF = .error (.invalidInstruction 0xFFFF) := by decide

/-- At the first and the last address a fetch may have, and with the executable region cut to one word. -/
theorem witness_StepRunsTheDecodedInstruction :
    (let s := prog [0x6A, 1];
      s.run = .running ∧ s.params.fetchLo ≤ s.pc.toNat ∧ s.pc.toNat + 1 ≤ s.params.fetchHi ∧
      decode (s.wordAt s.pc.toNat) = .ok (.ldVkk 10 1) ∧ s.host = []) ∧
    (let s := withBytes 0xFFE [0x6A, 1] (State.reset.jump 0xFFE);
      s.run = .running ∧ s.params.fetchLo ≤ s.pc.toNat ∧ s.pc.toNat + 1 ≤ s.params.fetchHi ∧
      decode (s.wordAt s.pc.toNat) = .ok (.ldVkk 10 1)) ∧
    (let s := machine { defaultParams with fetchHi := 0x201 } (prog [0x6A, 1]);
      s.run = .running ∧ s.params.fetchLo ≤ s.pc.toNat ∧ s.pc.toNat + 1 ≤ s.params.fetchHi ∧
      decode (s.wordAt s.pc.toNat) = .ok (.ldVkk 10 1)) ∧
    ({ State.reset with host := [[.tick], []] } : State).host = [.tick] :: [[]] := by
  decide

theorem witness_PlacedWordRunsNext :
    decode 0xD12F = .ok (.drw 1 2 15) ∧
    (let s := State.reset.jump 0xFFE;
      s.params.wf = true ∧ s.params.fetchLo + 1 ≤ s.params.fetchHi ∧
      (s.params.fetchLo ≤ s.pc.toNat ∧ s.pc.toNat + 1 ≤ s.params.fetchHi)) ∧
    (let s := machine { defaultParams with fetchLo := 0x300, fetchHi := 0x301 } State.reset;
      s.params.wf = true ∧ s.params.fetchLo + 1 ≤ s.params.fetchHi) := by
  decide

theorem witness_FetchReadsTheBigEndianWordOrHalts :
    (let s := State.reset; s.params.fetchLo ≤ s.pc.toNat ∧ s.pc.toNat + 1 ≤ s.params.fetchHi) ∧
    (let s := State.reset.jump 0xFFE; s.params.fetchLo ≤ s.pc.toNat ∧ s.pc.toNat + 1 ≤ s.params.fetchHi) ∧
    (let s := State.reset.jump 0x1FF;
      ¬ (s.params.fetchLo ≤ s.pc.toNat ∧ s.pc.toNat + 1 ≤ s.params.fetchHi) ∧ s.run = .running) ∧
    (let s := State.reset.jump 0xFFF;
      ¬ (s.params.fetchLo ≤ s.pc.toNat ∧ s.pc.toNat + 1 ≤ s.params.fetchHi) ∧ s.run = .running) := by
  decide

theorem witness_StepNStopsWhenTheCoreStops :
    (State.reset.suspend 1).run ≠ .running ∧ (prog [0x12, 0]).stepN 1 = .next (prog [0x12, 0]) :=
  ⟨by decide, rfl⟩

theorem witness_FailingStepChangesOnlyRun :
    (prog [0xFF, 0xFF]).run = .running ∧
    Next (prog [0xFF, 0xFF]).instructionStep fun t => t.run = .halted (.invalidInstruction 0xFFFF) :=
  ⟨rfl, _, rfl, by decide⟩

/-- One for each row of R221's table. -/
theorem witness_InstructionsRaiseOnlyTheirFailure :
    State.reset.run = .running ∧ Next (exec .ret State.reset) (·.run = .halted .stackUnderflow) ∧
    Next (exec (.call 0) (stacked 16 0 State.reset)) (·.run = .halted .stackOverflow) ∧
    Next (exec (.drw 0 0 1) (regsI 0x1000 [])) (·.run = .halted (.invalidAddress 0x1000)) ∧
    Next (exec (.ldBV 0) (regsI 0xFFE [])) (·.run = .halted (.invalidAddress 0x1000)) ∧
    Next (exec (.ldMiV 0) (regsI 0x1FF [])) (·.run = .halted (.invalidAddress 0x1FF)) ∧
    Next (exec (.ldVMi 15) (regsI 0xFF1 [])) (·.run = .halted (.invalidAddress 0x1000)) ∧
    Next (exec (.skp 0) (regs [(0, 16)])) (·.run = .halted (.keyIndexOutOfRange 16)) ∧
    Next (exec (.sknp 0) (regs [(0, 16)])) (·.run = .halted (.keyIndexOutOfRange 16)) :=
  ⟨rfl, ⟨_, rfl, by decide⟩, ⟨_, rfl, by decide⟩, ⟨_, rfl, by decide⟩, ⟨_, rfl, by decide⟩, ⟨_, rfl, by decide⟩,
    ⟨_, rfl, by decide⟩, ⟨_, rfl, by decide⟩, ⟨_, rfl, by decide⟩⟩

theorem witness_HaltedIsTerminal : (State.reset.halt .stackOverflow).run = .halted .stackOverflow := by decide

/-- A storing instruction and a drawing one complete. -/
theorem witness_InstructionsChangeOnlyTheirParts :
    Next (exec (.ldMiV 15) (regsI 0xFF0 [])) (·.run = .running) ∧
    Next (exec (.drw 0 0 15) (regsI 0xFF1 [])) (·.run = .running) :=
  ⟨⟨_, rfl, by decide⟩, ⟨_, rfl, by decide⟩⟩

theorem witness_InstructionsWriteOnlyTheirRegisters :
    Next (exec (.addVV 1 2) (regs [(1, 0xFF), (2, 1)])) (fun t => t.reg 1 = 0 ∧ t.reg VF = 1) :=
  ⟨_, rfl, by decide⟩

theorem witness_ScreenAndSoundTimerAreNotReadByOthers :
    Next (exec (.drw 0 0 1) State.reset) (·.run = .running) ∧ Next (exec (.ldStV 1) State.reset) (·.run = .running) ∧
    (∀ x y n, Instr.cls ≠ .drw x y n) ∧ Next (exec .cls State.reset) (·.run = .running) :=
  ⟨⟨_, rfl, by decide⟩, ⟨_, rfl, by decide⟩, by intros; simp, ⟨_, rfl, by decide⟩⟩

/-- Stacks that differ in every entry, all of them stale; a call then pushes. -/
theorem witness_StaleStackEntriesAreUnobservable :
    (stacked 0 7 (prog [0x23, 0])).SameButStale (stacked 0 8 (prog [0x23, 0])) ∧
    stacked 0 7 (prog [0x23, 0]) ≠ stacked 0 8 (prog [0x23, 0]) ∧
    Next (step (stacked 0 7 (prog [0x23, 0]))) (·.pc = 0x300) :=
  ⟨⟨rfl, fun j h => absurd h (Nat.not_lt_zero j.val)⟩, by decide, _, rfl, by decide⟩

theorem witness_RetPopsTheTopEntryIntoPc :
    State.reset.sp.val = 0 ∧ (stacked 1 0x246 State.reset).sp.val = (0 : Fin 16).val + 1 ∧
    (stacked 16 0x246 State.reset).sp.val = (15 : Fin 16).val + 1 := by decide

theorem witness_CallPushesItsOwnAddress :
    (stacked 16 0 State.reset).sp.val = 16 ∧ State.reset.sp.val = (0 : Fin 16).val ∧
    (stacked 15 0 State.reset).sp.val = (15 : Fin 16).val := by decide

theorem witness_ImmediateSkipsCompareVxWithKk :
    (regs [(1, 5)]).reg 1 = 5 ∧ (regs [(1, 5)]).reg 1 ≠ 6 := by decide

theorem witness_RegisterSkipsCompareVxWithVy :
    (regs [(1, 5), (2, 5)]).reg 1 = (regs [(1, 5), (2, 5)]).reg 2 ∧ (regs [(1, 5)]).reg 1 ≠ (regs [(1, 5)]).reg 2 := by
  decide

theorem witness_CallThenReturnGoesBackToTheCall :
    (stacked 15 0 State.reset).sp.val < 16 ∧ Next (exec (.call 0x300) (stacked 15 0 State.reset)) (·.pc = 0x300) :=
  ⟨by decide, _, rfl, by decide⟩

/-- A sum of 255 and one of 256, with a destination that is not VF. -/
theorem witness_AddSetsTheCarryFlag :
    (1 : Reg) ≠ VF ∧ (let s := regs [(1, 0xFE), (2, 1)]; (s.reg 1).toNat + (s.reg 2).toNat = 255) ∧
    (let s := regs [(1, 0xFF), (2, 1)]; (s.reg 1).toNat + (s.reg 2).toNat = 256) := by decide

theorem witness_SubtractionsSetTheNoBorrowFlag :
    (1 : Reg) ≠ VF ∧ (let s := regs [(1, 7), (2, 7)]; (s.reg 1).toNat = (s.reg 2).toNat) ∧
    (let s := regs [(1, 6), (2, 7)]; (s.reg 1).toNat + 1 = (s.reg 2).toNat) := by decide

theorem witness_ShiftsPutTheLostBitInVF : (1 : Reg) ≠ VF ∧ ((regs [(1, 0x81)]).reg 1).toNat = 0x81 := by decide

theorem witness_RandomByteIsMasked : (0x0F : Byte).getLsbD 4 = false ∧ (0x0F : Byte).getLsbD 8 = false := by decide

/-- The bounds of the writable window, and a machine with another lower bound. -/
theorem witness_BcdStoresThreeDigits :
    (let s := regsI 0x200 []; s.params.storeLo ≤ s.I.toNat ∧ s.I.toNat + 2 ≤ 0xFFF) ∧
    (let s := regsI 0xFFD []; s.params.storeLo ≤ s.I.toNat ∧ s.I.toNat + 2 ≤ 0xFFF) ∧
    (let s := machine { defaultParams with storeLo := 0x0A0 } (regsI 0x0A0 []);
      s.params.storeLo ≤ s.I.toNat ∧ s.I.toNat + 2 ≤ 0xFFF) ∧
    (let s := regsI 0x1FF []; s.I.toNat < s.params.storeLo) ∧ (let s := regsI 0xFFE []; s.I.toNat + 2 > 0xFFF) := by
  decide

theorem witness_RegisterBlockStore :
    (let s := regsI 0x200 []; s.params.storeLo ≤ s.I.toNat ∧ s.I.toNat + (15 : Reg).val ≤ 0xFFF) ∧
    (let s := regsI 0xFF0 []; s.params.storeLo ≤ s.I.toNat ∧ s.I.toNat + (15 : Reg).val ≤ 0xFFF) ∧ (15 : Reg) ≤ 15 ∧
    (let s := regsI 0x1FF []; s.I.toNat < s.params.storeLo) ∧
    (let s := regsI 0xFF1 []; s.I.toNat + (15 : Reg).val > 0xFFF) := by decide

theorem witness_RegisterBlockLoad :
    (regsI 0xFF1 []).I.toNat + (14 : Reg).val ≤ 0xFFF ∧ (14 : Reg) ≤ 14 ∧ (14 : Reg) < 15 ∧
    (regsI 0xFF1 []).I.toNat + (15 : Reg).val > 0xFFF := by decide

theorem witness_WindowChecksCoverTheWholeRange :
    checkRead 0xFF0 16 = none ∧ checkRead 0xFF1 16 = some (.invalidAddress 0x1000) ∧
    checkRead 0xFFFF 2 = some (.invalidAddress 0x10000) ∧ checkWrite 0x200 0x200 1 = none ∧
    checkWrite 0x200 0xFFF 1 = none ∧ checkWrite 0x200 0x1FF 16 = some (.invalidAddress 0x1FF) ∧
    checkWrite 0x200 0xFF1 16 = some (.invalidAddress 0x1000) ∧
    checkWrite 0x200 0x1234 2 = some (.invalidAddress 0x1234) := by decide

theorem witness_StoreChangesOneHalfOfTheFetchedWord :
    (let s := State.reset.writeBytes 0x300 [7];
      hiByte (s.wordAt 0x300) = 7 ∧ loByte (s.wordAt 0x2FF) = 7 ∧ s.wordAt 0x301 = 0) := by decide

theorem witness_StoredInstructionIsFetchedAtOnce :
    (let s := regsI 0x200 [(0, 0x6A), (1, 0x42)];
      s.params.storeLo ≤ s.I.toNat ∧ s.I.toNat + (1 : Reg).val ≤ 0xFFF ∧ (0x200#16).toNat = s.dataAddr (0 : Reg).val ∧
      s.params.fetchLo ≤ (0x200#16).toNat ∧ (0x200#16).toNat + 1 ≤ s.params.fetchHi) ∧ (0 : Reg) < 1 ∧
    Next (exec (.ldMiV 1) (regsI 0x200 [(0, 0x6A), (1, 0x42)])) (·.pc = 0x202) :=
  ⟨by decide, by decide, _, rfl, by decide⟩

/-- The byte 0x80 at 0xFFF, drawn over a lit pixel, and over an unlit one. -/
theorem witness_DrawFlipsExactlyTheCoveredPixels :
    (Instr.drw 1 2 15).wf = true ∧ (Instr.drw 1 2 0).wf = true ∧ (regsI 0xFF1 []).I.toNat + 15 - 1 ≤ 0xFFF ∧
    (let s := withBytes 0xFFF [0x80] (lit 0 0 (regsI 0xFF1 []));
      s.SpriteCovers 1 2 15 14 0 ∧ s.fb.pixel 14 0 = false) ∧
    (let s := withBytes 0xFFF [0x80] (lit 0 0 (regsI 0xFFF []));
      s.SpriteCovers 1 2 1 0 0 ∧ s.fb.pixel 0 0 = true) :=
  ⟨by decide, by decide, by decide, ⟨⟨14, 0, by decide, by decide, by decide, by decide, by decide⟩, by decide⟩,
    ⟨⟨0, 0, by decide, by decide, by decide, by decide, by decide⟩, by decide⟩⟩

theorem witness_DrawFlipsExactlyTheCoveredPixels_out_of_range :
    (Instr.drw 1 2 1).wf = true ∧ 0 < 1 ∧ (regsI 0x1000 []).I.toNat + 1 - 1 > 0xFFF ∧
    (Instr.drw 1 2 15).wf = true ∧ 0 < 15 ∧ (regsI 0xFF2 []).I.toNat + 15 - 1 > 0xFFF := by decide

/-- Here with x = 0xF, whose register the first draw writes. -/
theorem witness_DrawingTwiceRestoresTheScreen :
    (Instr.drw 15 2 1).wf = true ∧ (regsI 0xFFF []).I.toNat + 1 - 1 ≤ 0xFFF ∧
    Next (exec (.drw 15 2 1) (withBytes 0xFFF [0x80] (regsI 0xFFF []))) (fun t =>
      (t.reg 15).toNat % 64 = ((withBytes 0xFFF [0x80] (regsI 0xFFF [])).reg 15).toNat % 64 ∧
      (t.reg 2).toNat % 32 = ((withBytes 0xFFF [0x80] (regsI 0xFFF [])).reg 2).toNat % 32) :=
  ⟨by decide, by decide, _, rfl, by decide, by decide⟩

theorem witness_SecondDrawOfANonzeroSpriteAlwaysCollides :
    (Instr.drw 1 2 1).wf = true ∧ (regsI 0x300 []).I.toNat + 1 - 1 ≤ 0xFFF ∧ (1 : Reg) ≠ VF ∧ (2 : Reg) ≠ VF ∧
    (withBytes 0x300 [0x80] (regsI 0x300 [])).read ((regsI 0x300 []).I.toNat + 0) ≠ 0 ∧
    Next (exec (.drw 1 2 1) (withBytes 0x300 [0x80] (regsI 0x300 []))) (·.fb.pixel 0 0 = true) :=
  ⟨by decide, by decide, by decide, by decide, by decide, _, rfl, by decide⟩

theorem witness_FontAddressSelectsTheGlyph :
    State.reset.ReservedIntact ∧ (15 : Fin 16).val = ((regs [(0, 0x1F)]).reg 0).toNat % 16 :=
  ⟨fun _ _ => rfl, by decide⟩

/-- The bounds of an index, 15 and 16, under both policies. -/
theorem witness_KeySkipsReadKeyVx :
    (let s := regs [(0, 15)]; (s.reg 0).toNat ≤ 15 ∧ (s.reg 0).toNat % 16 = (15 : Fin 16).val) ∧
    (let s := masking (regs [(0, 16)]);
      s.params.keyIndexPolicy = .mask ∧ (s.reg 0).toNat % 16 = (0 : Fin 16).val) ∧
    (let s := regs [(0, 16)]; 15 < (s.reg 0).toNat ∧ s.params.keyIndexPolicy = .fault) := by decide

theorem witness_KeyIndexUnderBothPolicies :
    (15#8).toNat = (15 : Fin 16).val ∧ 15 < (16#8).toNat ∧ (16#8).toNat % 16 = (0 : Fin 16).val ∧
    (15#8).toNat ≤ 15 ∧ (15#8).toNat % 16 = (15 : Fin 16).val ∧
    (let s := regs [(3, 16)]; s.reg 3 = 16#8 ∧ s.params.keyIndexPolicy = .fault) ∧
    (let s := masking (regs [(3, 16)]); s.reg 3 = 16#8 ∧ s.params.keyIndexPolicy = .mask) := by decide

theorem witness_WaitForKeySuspendsAndResumes :
    (State.reset.suspend 1).run = .awaitingKey 1 ∧ (State.reset.suspend 1).keys.get 0 = false ∧
    (State.reset.suspend 1).keys.get 15 = false := by decide

theorem witness_SuspendedCoreWaitsForAKeyDown :
    (let s := { State.reset.suspend 1 with host := [[.tick, .setKey 15 false], [.setKey 3 true]] };
      s.run = .awaitingKey 1 ∧ ∀ ops ∈ s.host.head?, ∀ op ∈ ops, op = .tick ∨ ∃ k, op = .setKey k false) := by
  simp [State.suspend]

/-- One step with a tick scheduled, one without. -/
theorem witness_DelayTimerNeverRisesByItself :
    (let s := { (prog [0x6A, 1]).setDT 5 with host := [[.tick]] };
      Next (step s) (·.DT = 4) ∧ s.boundary.fetchDecode = .ok (.ldVkk 10 1)) ∧
    (let s := (prog [0x6A, 1]).setDT 5;
      Next (step s) (·.DT = 5) ∧ s.boundary.fetchDecode = .ok (.ldVkk 10 1) ∧
      ∀ ops ∈ s.host.head?, HostOp.tick ∉ ops) :=
  ⟨⟨⟨_, rfl, by decide⟩, by decide⟩, ⟨_, rfl, by decide⟩, by decide, by decide⟩

theorem witness_LoadRomCopiesOrRejects :
    3584 < (List.replicate 3585 (7 : Byte)).length ∧ (List.replicate 3584 (7 : Byte)).length ≤ 3584 ∧
    3583 < (List.replicate 3584 (7 : Byte)).length ∧ 0x1FF < 0x200 ∧
    0x200 + (List.replicate 3584 (7 : Byte)).length ≤ 0x1000 := by
  simp only [List.length_replicate]
  decide

theorem witness_SetKeyUpdatesOrRejects :
    15 < 16 ∧ 15 = (15 : Fin 16).val ∧ (State.reset.suspend 1).run = .awaitingKey 1 ∧
    (State.reset.suspend 1).keys.get 15 = false ∧ State.reset.run = .running ∧
    ((State.reset.writeKey 15 true).suspend 1).keys.get 15 = true := by decide

theorem witness_StopHaltsUnlessHalted :
    State.reset.run = .running ∧ (State.reset.suspend 1).run = .awaitingKey 1 ∧
    (State.reset.halt .stackOverflow).run = .halted .stackOverflow := by decide

/-- A stop among other operations, of a running core and of a waiting one; a tick before each later check. -/
theorem witness_ChecksAreMadeInOrder :
    (let s := { State.reset with host := [[.tick, .requestStop, .setKey 3 true]] };
      s.host = [.tick, .requestStop, .setKey 3 true] :: [] ∧
      HostOp.requestStop ∈ [HostOp.tick, .requestStop, .setKey 3 true] ∧ s.run = .running) ∧
    (let s := { State.reset.suspend 1 with host := [[.setKey 3 true, .requestStop]] };
      s.host = [.setKey 3 true, .requestStop] :: [] ∧
      HostOp.requestStop ∈ [HostOp.setKey 3 true, .requestStop] ∧ s.run = .awaitingKey 1) ∧
    (let s := { State.reset.jump 0xFFF with host := [[.tick]] };
      s.boundary.run = .running ∧
      ¬ (s.params.fetchLo ≤ s.boundary.pc.toNat ∧ s.boundary.pc.toNat + 1 ≤ s.params.fetchHi)) ∧
    (let s := { prog [0xFF, 0xFF] with host := [[.tick]] };
      s.boundary.run = .running ∧ s.params.fetchLo ≤ s.boundary.pc.toNat ∧
      s.boundary.pc.toNat + 1 ≤ s.params.fetchHi ∧
      decode (s.wordAt s.boundary.pc.toNat) = .error (.invalidInstruction 0xFFFF)) ∧
    (let s := { prog [0x6A, 1] with host := [[.tick]] };
      s.boundary.run = .running ∧ decode (s.wordAt s.boundary.pc.toNat) = .ok (.ldVkk 10 1)) := by decide

theorem witness_HostOperationsReachOnlyTheirParts : ∀ x, State.reset.run ≠ .awaitingKey x := by decide

theorem witness_EveryStepKeepsTheInvariant : State.reset.Inv ∧ Next (step State.reset) (fun _ => True) :=
  ⟨⟨by decide, by decide, by decide, by decide, by decide⟩, _, rfl, trivial⟩

theorem witness_InvariantHoldsAtLaunch :
    defaultParams.wf = true ∧ ∃ s, launch defaultParams [0x12, 0x00] = .ok s ∧ s.read 0x200 = 0x12 :=
  ⟨by decide, _, rfl, by decide⟩

/-- The step is a store at the lowest writable address. -/
theorem witness_NoStepWritesTheReservedRegion :
    Next (step ((prog [0xF0, 0x55]).setI 0x200)) (·.read 0x200 = 0) ∧ (prog [0xF0, 0x55]).params = defaultParams ∧
    (prog [0xF0, 0x55]).params.wf = true ∧ 0x1FF < (prog [0xF0, 0x55]).params.storeLo ∧ 0x1FF < 0x200 ∧ 0x09F < 0x0A0 :=
  ⟨⟨_, rfl, by decide⟩, rfl, by decide, by decide, by decide, by decide⟩

theorem witness_IdleLoopLeavesTheStateUnchanged : (prog [0x12, 0]).idle ∧ (prog [0x12, 0]).host = [] :=
  ⟨⟨rfl, 0x200, by decide, by decide⟩, rfl⟩

end Sys2Proof.Tests
end

section
/-! ## The scope family: the decoder on written-out words (R17, R73 to R77) -/

namespace Sys2Proof

/-- Settles O5: every word is a literal, so `decode` computes its answer; no state and no quantifier is involved. -/
theorem writtenOutWordsDecodeAsTheTableSays : Obligations.WrittenOutWordsDecodeAsTheTableSays := by
  unfold Obligations.WrittenOutWordsDecodeAsTheTableSays
  decide

end Sys2Proof
end

section
/-! ## The state family: what an instruction leaves as it found it (10_state.md R20 to R37) -/

namespace Sys2Proof.Machine

/-! ### Frames as equalities of fields -/

/-- The part is the same data after as before; `Part.Same` speaks of what can be read of it. -/
def Part.Kept : Part → State → State → Prop
  | .V, s, t => t.V = s.V
  | .I, s, t => t.I = s.I
  | .pc, s, t => t.pc = s.pc
  | .stack, s, t => t.stack = s.stack
  | .sp, s, t => t.sp = s.sp
  | .DT, s, t => t.DT = s.DT
  | .ST, s, t => t.ST = s.ST
  | .keys, s, t => t.keys = s.keys
  | .fb, s, t => t.fb = s.fb
  | .mem, s, t => t.mem = s.mem
  | .run, s, t => t.run = s.run
  | .draws, s, t => t.draws = s.draws
  | .host, s, t => t.host = s.host
  | .params, s, t => t.params = s.params

/-- Every part but the listed ones is the same data. -/
def KeepsOutside (parts : List Part) (s t : State) : Prop := ∀ p : Part, p ∉ parts → p.Kept s t

theorem Part.Kept.trans {p : Part} {s t u : State} (h : p.Kept s t) (k : p.Kept t u) : p.Kept s u := by
  cases p <;> exact Eq.trans k h

theorem KeepsOutside.trans {ps qs : List Part} {s t u : State} (h : KeepsOutside ps s t) (k : KeepsOutside qs t u) :
    KeepsOutside (ps ++ qs) s u := by
  intro p hp
  rw [List.mem_append, not_or] at hp
  exact (h p hp.1).trans (k p hp.2)

theorem KeepsOutside.mono {ps qs : List Part} {s t : State} (h : KeepsOutside ps s t) (hs : ps ⊆ qs) :
    KeepsOutside qs s t :=
  fun p hp => h p fun hm => hp (hs hm)

/-- Equal data reads the same; memory reads through the parameters too. -/
theorem KeepsOutside.changesOnly {ps : List Part} {s t : State} (h : KeepsOutside ps s t) (hp : .params ∉ ps) :
    ChangesOnly ps s t := by
  intro p hn
  have k := h p hn
  cases p with
  | V => exact fun r => congrArg (·.get r) k
  | stack => exact fun j => congrArg (·.get j) k
  | keys => exact fun j => congrArg (·.get j) k
  | fb => exact fun r c => congrArg (·.pixel r c) k
  | mem => exact fun a => State.read_congr k (h .params hp) a
  | I | pc | sp | DT | ST | run | draws | host | params => exact k

theorem KeepsOutside.reg_eq {ps : List Part} {s t : State} (h : KeepsOutside ps s t) (hp : .V ∉ ps) (r : Reg) :
    t.reg r = s.reg r :=
  congrArg (·.get r) (h .V hp)

/-! ### The frame of each operation on the state -/

theorem keepsOutside_setReg (s : State) (x : Reg) (v : Byte) : KeepsOutside [.V] s (s.setReg x v) := by
  intro p hp
  cases p <;> simp [Part.Kept] at hp ⊢

theorem keepsOutside_setFlagged (s : State) (x : Reg) (flag v : Byte) :
    KeepsOutside [.V] s (s.setFlagged x flag v) :=
  ((keepsOutside_setReg s VF flag).trans (keepsOutside_setReg _ x v)).mono (by decide)

theorem keepsOutside_loadRegs (s : State) (x : Reg) : KeepsOutside [.V] s (s.loadRegs x) := by
  intro p hp
  cases p <;> simp [Part.Kept] at hp ⊢

theorem keepsOutside_setI (s : State) (v : Word) : KeepsOutside [.I] s (s.setI v) := by
  intro p hp
  cases p <;> simp [Part.Kept] at hp ⊢

theorem keepsOutside_setDT (s : State) (v : Byte) : KeepsOutside [.DT] s (s.setDT v) := by
  intro p hp
  cases p <;> simp [Part.Kept] at hp ⊢

theorem keepsOutside_setST (s : State) (v : Byte) : KeepsOutside [.ST] s (s.setST v) := by
  intro p hp
  cases p <;> simp [Part.Kept] at hp ⊢

theorem keepsOutside_setFb (s : State) (fb : Framebuffer) : KeepsOutside [.fb] s (s.setFb fb) := by
  intro p hp
  cases p <;> simp [Part.Kept] at hp ⊢

theorem keepsOutside_store (s : State) (vs : List Byte) : KeepsOutside [.mem] s (s.store vs) := by
  intro p hp
  cases p <;> simp [Part.Kept] at hp ⊢

theorem keepsOutside_draw (s : State) : KeepsOutside [.draws] s s.draw.2 := by
  intro p hp
  cases p <;> simp [Part.Kept] at hp ⊢

theorem keepsOutside_halt (s : State) (reason : HaltReason) : KeepsOutside [.run] s (s.halt reason) := by
  intro p hp
  cases p <;> simp [Part.Kept] at hp ⊢

theorem keepsOutside_suspend (s : State) (x : Reg) : KeepsOutside [.run] s (s.suspend x) := by
  intro p hp
  cases p <;> simp [Part.Kept] at hp ⊢

theorem keepsOutside_jump (s : State) (target : Word) : KeepsOutside [.pc] s (s.jump target) := by
  intro p hp
  cases p <;> simp [Part.Kept] at hp ⊢

theorem keepsOutside_skipIf (s : State) (c : Bool) : KeepsOutside [.pc] s (s.skipIf c) := by
  cases c <;> exact keepsOutside_jump s _

/-- After its effect on some parts, an instruction moves on to the next one. -/
theorem KeepsOutside.advance {ps : List Part} {s t : State} (h : KeepsOutside ps s t) :
    KeepsOutside (ps ++ [.pc]) s t.advance :=
  h.trans (keepsOutside_jump t _)

/-- A guarded access writes what its success writes, or `run`. -/
theorem KeepsOutside.guarded {ps : List Part} {check : Option HaltReason} {done s t : State}
    (hd : KeepsOutside ps s done) (h : guarded check done s = .next t) : KeepsOutside (ps ++ [.run]) s t := by
  obtain ⟨reason, -, rfl⟩ | ⟨-, rfl⟩ := guarded_cases h
  · exact (keepsOutside_halt s reason).mono (List.subset_append_right _ _)
  · exact hd.mono (List.subset_append_left _ _)

theorem keepsOutside_skipOnKey {s t : State} {x : Reg} {wanted : Bool} (h : s.skipOnKey x wanted = .next t) :
    KeepsOutside [.pc, .run] s t := by
  obtain rfl | ⟨k, rfl⟩ := State.skipOnKey_cases h
  · exact (keepsOutside_halt s _).mono (by decide)
  · exact (keepsOutside_skipIf s _).mono (by decide)

theorem execRet_keepsOutside {s t : State} (h : execRet s = .next t) : KeepsOutside [.pc, .sp, .run] s t := by
  obtain ⟨-, rfl⟩ | ⟨j, -, rfl⟩ := execRet_cases h
  · exact (keepsOutside_halt s _).mono (by decide)
  · intro p hp
    cases p <;> simp [Part.Kept] at hp ⊢

theorem execCall_keepsOutside {s t : State} {nnn : Addr12} (h : execCall nnn s = .next t) :
    KeepsOutside [.pc, .stack, .sp, .run] s t := by
  obtain ⟨-, rfl⟩ | ⟨hs, rfl⟩ := execCall_cases h
  · exact (keepsOutside_halt s _).mono (by decide)
  · intro p hp
    cases p <;> simp [Part.Kept] at hp ⊢

/-! ### The frame of each instruction -/

/-- Every instruction leaves the parts outside its row as they are. -/
theorem exec_keepsOutside {i : Instr} {s t : State} (h : exec i s = .next t) : KeepsOutside i.writesParts s t := by
  cases i with
  | cls => cases h; exact (keepsOutside_setFb s _).advance
  | ret => exact execRet_keepsOutside h
  | call nnn => exact execCall_keepsOutside h
  | jp | jpV0 => cases h; exact keepsOutside_jump s _
  | seVkk | sneVkk | seVV | sneVV => cases h; exact keepsOutside_skipIf s _
  | ldVkk | addVkk | ldVV | orVV | andVV | xorVV | ldVDt => cases h; exact (keepsOutside_setReg s _ _).advance
  | addVV | subVV | shrV | subnVV | shlV => cases h; exact (keepsOutside_setFlagged s _ _ _).advance
  | rnd x kk =>
    cases h
    exact ((keepsOutside_draw s).trans (keepsOutside_setReg _ _ _)).advance.mono (by simp [Instr.writesParts])
  | drw x y n =>
    exact ((keepsOutside_setFb s _).trans (keepsOutside_setReg _ _ _)).advance.guarded h
      |>.mono (by simp [Instr.writesParts])
  | skp | sknp => exact keepsOutside_skipOnKey h
  | ldVKey x => cases h; exact keepsOutside_suspend s x
  | ldI | addIV | ldFV => cases h; exact (keepsOutside_setI s _).advance
  | ldDtV x => cases h; exact (keepsOutside_setDT s _).advance
  | ldStV x => cases h; exact (keepsOutside_setST s _).advance
  | ldBV | ldMiV => exact (keepsOutside_store s _).advance.guarded h
  | ldVMi x => exact (keepsOutside_loadRegs s x).advance.guarded h

theorem params_not_mem_writesParts (i : Instr) : .params ∉ i.writesParts := by
  cases i <;> simp [Instr.writesParts]

end Sys2Proof.Machine

namespace Sys2Proof

open Machine

/-- Settles O14: the frame of each instruction as equal data, read part by part. -/
theorem instructionsChangeOnlyTheirParts : Obligations.InstructionsChangeOnlyTheirParts :=
  fun i _ _ h => (exec_keepsOutside h).changesOnly (params_not_mem_writesParts i)

end Sys2Proof
end

section
/-! ## The state family: registers, control, memory and stack after an instruction (R22 to R32) -/

namespace Sys2Proof.Machine

/-! ### Which registers each instruction writes (R23) -/

theorem KeepsOutside.writesOnlyRegs {ps : List Part} {s t : State} (h : KeepsOutside ps s t) (hp : .V ∉ ps)
    (regs : List Reg) : WritesOnlyRegs regs s t :=
  fun r _ => h.reg_eq hp r

theorem writesOnlyRegs_setReg (s : State) (x : Reg) (v : Byte) : WritesOnlyRegs [x] s (s.setReg x v) := by
  intro r hr
  rw [List.mem_singleton] at hr
  rw [State.reg_setReg, if_neg hr]

theorem writesOnlyRegs_setFlagged (s : State) (x : Reg) (flag v : Byte) :
    WritesOnlyRegs [VF, x] s (s.setFlagged x flag v) := by
  intro r hr
  rw [List.mem_pair, not_or] at hr
  rw [State.reg_setFlagged, if_neg hr.2, if_neg hr.1]

/-- Fx65 loads V0 to V[x] (R155). -/
theorem writesOnlyRegs_loadRegs (s : State) (x : Reg) :
    WritesOnlyRegs ((List.finRange 16).filter (· ≤ x)) s (s.loadRegs x) := by
  intro r hr
  have hr : ¬ r.val ≤ x.val := by simpa using hr
  rw [State.reg_loadRegs, if_neg hr]

theorem WritesOnlyRegs.advance {regs : List Reg} {s t : State} (h : WritesOnlyRegs regs s t) :
    WritesOnlyRegs regs s t.advance :=
  fun r hr => (t.advance_reg r).trans (h r hr)

/-- A guarded access writes the registers its success writes, or none. -/
theorem WritesOnlyRegs.guarded {regs : List Reg} {check : Option HaltReason} {done s t : State}
    (hd : WritesOnlyRegs regs s done) (h : guarded check done s = .next t) : WritesOnlyRegs regs s t := by
  obtain ⟨reason, -, rfl⟩ | ⟨-, rfl⟩ := guarded_cases h
  · exact fun r _ => s.halt_reg reason r
  · exact hd

/-- Every instruction leaves the registers outside its row of R23 as they are. -/
theorem exec_writesOnlyRegs {i : Instr} {s t : State} (h : exec i s = .next t) :
    WritesOnlyRegs i.writesRegs s t := by
  by_cases hV : .V ∉ i.writesParts
  · exact (exec_keepsOutside h).writesOnlyRegs hV _
  · cases i with
    | ldVkk | addVkk | ldVV | orVV | andVV | xorVV | ldVDt => cases h; exact (writesOnlyRegs_setReg s _ _).advance
    | addVV | subVV | shrV | subnVV | shlV => cases h; exact (writesOnlyRegs_setFlagged s _ _ _).advance
    | rnd x kk => cases h; exact (writesOnlyRegs_setReg s.draw.2 x _).advance
    | drw x y n =>
      refine WritesOnlyRegs.guarded (fun r hr => ?_) h
      rw [State.advance_reg, State.reg_setReg, if_neg (List.mem_singleton.not.1 hr), State.setFb_reg]
    | ldVMi x =>
      refine WritesOnlyRegs.guarded ?_ h
      exact (writesOnlyRegs_loadRegs s x).advance
    | _ => simp [Instr.writesParts] at hV

/-! ### Where control goes and whether the core goes on -/

/-- The addresses the next instruction can have (R25, R100 to R107). -/
inductive State.Successor (s : State) : Word → Prop
  | next : s.Successor (s.pc + 2)
  | skip : s.Successor (s.pc + 4)
  | target (nnn : Addr12) : s.Successor (zext16 nnn)
  | indexed (nnn : Addr12) : s.Successor ((s.reg 0).setWidth 16 + zext16 nnn)
  | popped (j : Fin 16) : s.Successor (s.stack.get j)

/-- What an instruction can do to the control of the machine: raise, suspend, or go on at a successor address. -/
inductive State.Goes (s : State) : State → Prop
  | halted (reason : HaltReason) : s.Goes (s.halt reason)
  | suspended (x : Reg) : s.Goes (s.suspend x)
  | on {t : State} (run_eq : t.run = s.run) (pc : s.Successor t.pc) : s.Goes t

theorem State.goes_advance {s t : State} (run_eq : t.run = s.run) (pc_eq : t.pc = s.pc) : s.Goes t.advance :=
  .on run_eq (by rw [State.advance_pc, pc_eq]; exact .next)

theorem State.goes_skipIf (s : State) (c : Bool) : s.Goes (s.skipIf c) := by
  cases c
  · exact .on rfl .next
  · exact .on rfl .skip

theorem State.Goes.guarded {check : Option HaltReason} {done s t : State} (hd : s.Goes done)
    (h : guarded check done s = .next t) : s.Goes t := by
  obtain ⟨reason, -, rfl⟩ | ⟨-, rfl⟩ := guarded_cases h
  · exact .halted reason
  · exact hd

theorem exec_goes {i : Instr} {s t : State} (h : exec i s = .next t) : s.Goes t := by
  cases i with
  | ret =>
    obtain ⟨-, rfl⟩ | ⟨j, -, rfl⟩ := execRet_cases h
    · exact .halted _
    · exact .on rfl (.popped j)
  | call nnn =>
    obtain ⟨-, rfl⟩ | ⟨hs, rfl⟩ := execCall_cases h
    · exact .halted _
    · exact .on rfl (.target nnn)
  | jp nnn => cases h; exact .on rfl (.target nnn)
  | jpV0 nnn => cases h; exact .on rfl (.indexed nnn)
  | seVkk | sneVkk | seVV | sneVV => cases h; exact s.goes_skipIf _
  | skp | sknp =>
    obtain rfl | ⟨k, rfl⟩ := State.skipOnKey_cases h
    · exact .halted _
    · exact s.goes_skipIf _
  | ldVKey x => cases h; exact .suspended x
  | drw | ldBV | ldMiV | ldVMi =>
    refine State.Goes.guarded ?_ h
    apply State.goes_advance <;> simp
  | _ => cases h; apply State.goes_advance <;> simp

/-! ### What each instruction does to memory and to the stack -/

/-- Memory is as it was, or bytes were stored at I, inside the window of 20_memory.md R57. -/
def StoresInWindow (s t : State) : Prop :=
  t.mem = s.mem ∨ ∃ vs : List Byte, t.mem = s.mem.writeBytes s.params.font s.I.toNat vs ∧
    s.params.storeLo ≤ s.I.toNat ∧ s.I.toNat + vs.length ≤ Config.memSize

theorem guarded_storesInWindow {s t : State} {vs : List Byte} {k : Nat} (hk : vs.length = k + 1)
    (h : guarded (checkWrite s.params.storeLo s.I (k + 1)) (s.store vs).advance s = .next t) :
    StoresInWindow s t := by
  obtain ⟨reason, -, rfl⟩ | ⟨hc, rfl⟩ := guarded_cases h
  · exact .inl rfl
  · obtain ⟨hlo, hhi⟩ := checkWrite_eq_none.1 hc
    exact .inr ⟨vs, rfl, hlo, by simp only [Config.memSize]; omega⟩

theorem exec_storesInWindow {i : Instr} {s t : State} (h : exec i s = .next t) : StoresInWindow s t := by
  by_cases hm : .mem ∉ i.writesParts
  · exact .inl (exec_keepsOutside h .mem hm)
  · cases i with
    | ldBV x => exact guarded_storesInWindow (length_bcdDigits _) h
    | ldMiV x => exact guarded_storesInWindow (s.length_regBlock x) h
    | _ => simp [Instr.writesParts] at hm

/-- An instruction leaves the stack's entries as they are, or pushes pc. -/
theorem exec_stack_cases {i : Instr} {s t : State} (h : exec i s = .next t) :
    t.stack = s.stack ∨ ∃ hs : s.sp.val < 16, t.stack = s.stack.set s.sp.val s.pc hs := by
  by_cases hm : .stack ∉ i.writesParts
  · exact .inl (exec_keepsOutside h .stack hm)
  · cases i with
    | call nnn =>
      obtain ⟨-, rfl⟩ | ⟨hs, rfl⟩ := execCall_cases h
      · exact .inl rfl
      · exact .inr ⟨hs, rfl⟩
    | _ => simp [Instr.writesParts] at hm

end Sys2Proof.Machine

namespace Sys2Proof

open Machine

/-- Settles O15. -/
theorem instructionsWriteOnlyTheirRegisters : Obligations.InstructionsWriteOnlyTheirRegisters :=
  fun _ _ _ h => exec_writesOnlyRegs h

end Sys2Proof
end

section
/-! ## The state family: parts that an instruction or a step does not read (R32, R34, R37) -/

namespace Sys2Proof.Machine

/-! ### Overlays and instructions -/

/-- Other contents for the parts that few instructions read: the sound timer, the framebuffer, the stack entries. -/
structure Overlay where
  ST : Option Byte
  fb : Option Framebuffer
  stack : Option (Vector Word 16)

/-- The state with those contents in place of its own. -/
def Overlay.on (o : Overlay) (s : State) : State :=
  { s with ST := o.ST.getD s.ST, fb := o.fb.getD s.fb, stack := o.stack.getD s.stack }

/-- The instruction neither reads nor writes what the overlay exchanges: Fx18 writes ST, 00E0 writes the framebuffer
and Dxyn reads it, 00EE reads the stack and 2nnn writes it. -/
def Overlay.UnusedBy (o : Overlay) : Instr → Prop
  | .ldStV _ => o.ST = none
  | .cls | .drw _ _ _ => o.fb = none
  | .ret | .call _ => o.stack = none
  | _ => True

theorem Overlay.advance_on (o : Overlay) (s : State) : (o.on s).advance = o.on s.advance := rfl

theorem Overlay.loadRegs_on (o : Overlay) (s : State) (x : Reg) : (o.on s).loadRegs x = o.on (s.loadRegs x) := by
  simp only [Overlay.on, State.loadRegs, State.read, State.dataAddr]

theorem Overlay.skipIf_on (o : Overlay) (s : State) (c : Bool) : (o.on s).skipIf c = o.on (s.skipIf c) := by
  cases c <;> rfl

theorem Overlay.guarded_on {o : Overlay} {check : Option HaltReason} {done s t : State}
    (h : guarded check done s = .next t) : guarded check (o.on done) (o.on s) = .next (o.on t) := by
  obtain ⟨reason, rfl, rfl⟩ | ⟨rfl, rfl⟩ := guarded_cases h <;> rfl

theorem State.skipOnKey_of_error {s : State} {x : Reg} {wanted : Bool} {reason : HaltReason}
    (h : keyIndex s.params.keyIndexPolicy (s.reg x) = .error reason) :
    s.skipOnKey x wanted = .next (s.halt reason) := by
  simp only [State.skipOnKey, h, raise]

theorem State.skipOnKey_of_ok {s : State} {x : Reg} {wanted : Bool} {k : Fin 16}
    (h : keyIndex s.params.keyIndexPolicy (s.reg x) = .ok k) :
    s.skipOnKey x wanted = .next (s.skipIf (s.keys.get k == wanted)) := by
  simp only [State.skipOnKey, h]

theorem Overlay.skipOnKey_on {o : Overlay} {s t : State} {x : Reg} {wanted : Bool}
    (h : s.skipOnKey x wanted = .next t) : (o.on s).skipOnKey x wanted = .next (o.on t) := by
  cases hk : keyIndex s.params.keyIndexPolicy (s.reg x) with
  | error reason =>
    rw [State.skipOnKey_of_error hk] at h
    cases h
    exact State.skipOnKey_of_error (s := o.on s) hk
  | ok k =>
    rw [State.skipOnKey_of_ok hk] at h
    cases h
    rw [State.skipOnKey_of_ok (s := o.on s) hk, Overlay.skipIf_on]
    rfl

theorem execRet_of_empty {s : State} (h : s.sp.val = 0) : execRet s = .next (s.halt .stackUnderflow) := by
  simp only [execRet, State.pop_of_empty h, raise]

theorem execCall_of_full {s : State} (nnn : Addr12) (h : s.sp.val = 16) :
    execCall nnn s = .next (s.halt .stackOverflow) := by
  simp only [execCall, State.push_of_full _ h, raise]

/-- What an instruction does not use is carried along unchanged, and everything else comes out the same. -/
theorem Overlay.exec_on {o : Overlay} {i : Instr} {s t : State} (hu : o.UnusedBy i) (h : exec i s = .next t) :
    exec i (o.on s) = .next (o.on t) := by
  obtain ⟨st, fb, stack⟩ := o
  cases i with
  | cls => cases hu; cases h; rfl
  | ldStV x => cases hu; cases h; rfl
  | drw x y n => cases hu; exact Overlay.guarded_on h
  | ret =>
    cases hu
    obtain ⟨hs, rfl⟩ | ⟨j, hj, rfl⟩ := execRet_cases h
    · exact execRet_of_empty (s := Overlay.on _ s) hs
    · exact execRet_of_nonempty (s := Overlay.on _ s) hj
  | call nnn =>
    cases hu
    obtain ⟨hs, rfl⟩ | ⟨hs, rfl⟩ := execCall_cases h
    · exact execCall_of_full (s := Overlay.on _ s) nnn hs
    · exact execCall_of_room (s := Overlay.on _ s) nnn hs
  | seVkk | sneVkk | seVV | sneVV => cases h; exact congrArg Host.Outcome.next (Overlay.skipIf_on _ s _)
  | skp | sknp => exact Overlay.skipOnKey_on h
  | ldBV | ldMiV => exact Overlay.guarded_on h
  | ldVMi x =>
    have hg := Overlay.guarded_on (o := ⟨st, fb, stack⟩) h
    rw [← Overlay.advance_on, ← Overlay.loadRegs_on] at hg
    exact hg
  | _ => cases h; rfl

/-! ### The schedule under an overlay -/

theorem State.setKey_of_awaiting {s : State} {x : Reg} (h : s.run = .awaitingKey x) (k : Fin 16) (pressed : Bool) :
    s.setKey k pressed =
      if pressed && !s.keys.get k then (s.writeKey k pressed).resume x k else s.writeKey k pressed := by
  simp only [State.setKey, h]

theorem State.setKey_of_not_awaiting {s : State} (h : ∀ x, s.run ≠ .awaitingKey x) (k : Fin 16) (pressed : Bool) :
    s.setKey k pressed = s.writeKey k pressed := by
  obtain ⟨x, hx, -⟩ | ⟨-, e⟩ := s.setKey_cases k pressed
  · exact absurd hx (h x)
  · exact e

theorem Overlay.setKey_on (o : Overlay) (s : State) (k : Fin 16) (pressed : Bool) :
    (o.on s).setKey k pressed = o.on (s.setKey k pressed) := by
  by_cases h : ∃ x, s.run = .awaitingKey x
  · obtain ⟨x, hx⟩ := h
    rw [State.setKey_of_awaiting hx, State.setKey_of_awaiting (s := o.on s) hx, apply_ite o.on]
    rfl
  · have h : ∀ x, s.run ≠ .awaitingKey x := fun x hx => h ⟨x, hx⟩
    rw [State.setKey_of_not_awaiting h, State.setKey_of_not_awaiting (s := o.on s) h]
    rfl

/-- Only `tick` reads or writes a part that an overlay can exchange, and that part is ST. -/
theorem Overlay.applyOp_on {o : Overlay} (hST : o.ST = none) (s : State) (op : HostOp) :
    (o.on s).applyOp op = o.on (s.applyOp op) := by
  obtain ⟨st, fb, stack⟩ := o
  cases hST
  cases op with
  | tick => rfl
  | setKey k pressed =>
    by_cases hk : k < 16
    · simp only [State.applyOp, hostSetKey, hk, dif_pos]
      exact Overlay.setKey_on _ s ⟨k, hk⟩ pressed
    · simp only [State.applyOp, hostSetKey, hk, dif_neg, not_false_eq_true]
  | requestStop =>
    have hr : (Overlay.on ⟨none, fb, stack⟩ s).run = s.run := rfl
    simp only [State.applyOp, State.requestStop, hr]
    cases s.run <;> rfl

theorem Overlay.applyOps_on {o : Overlay} (hST : o.ST = none) (s : State) (ops : List HostOp) :
    (o.on s).applyOps ops = o.on (s.applyOps ops) := by
  induction ops generalizing s with
  | nil => rfl
  | cons op ops ih => simp only [State.applyOps, Overlay.applyOp_on hST, ih]

theorem Overlay.boundary_on {o : Overlay} (hST : o.ST = none) (s : State) :
    (o.on s).boundary = o.on s.boundary := by
  have hh : (o.on s).host = s.host := rfl
  cases hs : s.host with
  | nil => simp only [State.boundary, hh, hs]
  | cons ops rest =>
    simp only [State.boundary, hh, hs]
    exact Overlay.applyOps_on hST { s with host := rest } ops

@[simp] theorem State.boundary_stack (s : State) : s.boundary.stack = s.stack := by
  obtain ⟨-, h⟩ | ⟨ops, rest, -, h⟩ := s.boundary_cases <;> simp [h]

@[simp] theorem State.boundary_sp (s : State) : s.boundary.sp = s.sp := by
  obtain ⟨-, h⟩ | ⟨ops, rest, -, h⟩ := s.boundary_cases <;> simp [h]

/-! ### Stale stack entries (R32) -/

/-- The overlay that exchanges the stack's entries and nothing else. -/
def Overlay.ofStack (stack : Vector Word 16) : Overlay := ⟨none, none, some stack⟩

theorem State.SameButStale.eq_on {s t : State} (h : s.SameButStale t) : t = (Overlay.ofStack t.stack).on s := h.rest

/-- States that agree on the valid entries still do where the stack and sp are those from before. -/
theorem State.SameButStale.on {s t s' : State} (h : s.SameButStale t) (hstack : s'.stack = s.stack)
    (hsp : s'.sp = s.sp) : s'.SameButStale ((Overlay.ofStack t.stack).on s') where
  rest := rfl
  valid := fun j hj => (h.valid j (hsp ▸ hj)).trans (congrArg (·.get j) hstack.symm)

theorem State.SameButStale.halt {s t : State} (h : s.SameButStale t) (reason : HaltReason) :
    (s.halt reason).SameButStale (t.halt reason) where
  rest := by rw [h.rest]; rfl
  valid := h.valid

theorem State.SameButStale.boundary {s t : State} (h : s.SameButStale t) : s.boundary.SameButStale t.boundary := by
  have hb := h.on s.boundary_stack s.boundary_sp
  rwa [← Overlay.boundary_on rfl, ← h.eq_on] at hb

theorem State.SameButStale.fetchDecode {s t : State} (h : s.SameButStale t) : t.fetchDecode = s.fetchDecode := by
  rw [h.rest]
  rfl

/-- A pop reads a valid entry. -/
theorem State.SameButStale.execRet {s t s' : State} (h : s.SameButStale t) (he : execRet s = .next s') :
    ∃ t', execRet t = .next t' ∧ s'.SameButStale t' := by
  obtain ⟨stack, rfl⟩ : ∃ stack, t = { s with stack := stack } := ⟨_, h.rest⟩
  obtain ⟨hs, rfl⟩ | ⟨j, hj, rfl⟩ := execRet_cases he
  · exact ⟨_, execRet_of_empty hs, h.halt _⟩
  · have hpop : stack.get j = s.stack.get j := h.valid j (by omega)
    refine ⟨_, execRet_of_nonempty (s := { s with stack := stack }) hj, by simp only [hpop],
      fun k (hk : k.val < j.val) => h.valid k (by omega)⟩

/-- A push writes the first stale entry and makes it valid. -/
theorem State.SameButStale.execCall {s t s' : State} {nnn : Addr12} (h : s.SameButStale t)
    (he : execCall nnn s = .next s') : ∃ t', execCall nnn t = .next t' ∧ s'.SameButStale t' := by
  obtain ⟨stack, rfl⟩ : ∃ stack, t = { s with stack := stack } := ⟨_, h.rest⟩
  obtain ⟨hs, rfl⟩ | ⟨hs, rfl⟩ := execCall_cases he
  · exact ⟨_, execCall_of_full nnn hs, h.halt _⟩
  · refine ⟨_, execCall_of_room (s := { s with stack := stack }) nnn hs, rfl, fun k (hk : k.val < s.sp.val + 1) => ?_⟩
    simp only [Vector.get_eq_getElem, Vector.getElem_set]
    split_ifs with hne
    · rfl
    · exact h.valid k (by omega)

theorem State.SameButStale.exec {i : Instr} {s t s' : State} (h : s.SameButStale t) (he : exec i s = .next s') :
    ∃ t', Machine.exec i t = .next t' ∧ s'.SameButStale t' := by
  by_cases hsp : .sp ∉ i.writesParts
  · have hk := exec_keepsOutside he
    have hstack : .stack ∉ i.writesParts := by cases i <;> simp [Instr.writesParts] at hsp ⊢
    have hu : (Overlay.ofStack t.stack).UnusedBy i := by
      cases i <;> simp [Instr.writesParts, Overlay.UnusedBy, Overlay.ofStack] at hsp ⊢
    refine ⟨_, ?_, h.on (hk .stack hstack) (hk .sp hsp)⟩
    rw [h.eq_on]
    exact Overlay.exec_on hu he
  · cases i with
    | ret => exact h.execRet he
    | call nnn => exact h.execCall he
    | _ => simp [Instr.writesParts] at hsp

theorem State.SameButStale.instructionStep {s t s' : State} (h : s.SameButStale t)
    (hs : s.instructionStep = .next s') : ∃ t', t.instructionStep = .next t' ∧ s'.SameButStale t' := by
  have hrun : t.run = s.run := by rw [h.rest]
  obtain ⟨hr, i, hi, he⟩ | ⟨hr, reason, hf, rfl⟩ | ⟨hr, rfl⟩ := State.instructionStep_cases hs
  · rw [State.instructionStep_of_fetchDecode (hrun.trans hr) (h.fetchDecode.trans hi)]
    exact h.exec he
  · exact ⟨_, State.instructionStep_of_error (hrun.trans hr) (h.fetchDecode.trans hf), h.halt reason⟩
  · exact ⟨t, State.instructionStep_of_not_running (hrun ▸ hr), h⟩

end Sys2Proof.Machine

namespace Sys2Proof

open Machine

/-- Settles O17: the boundary carries stale entries along, and so does every instruction; a pop reads a valid entry,
and a push makes the entry it writes valid. -/
theorem staleStackEntriesAreUnobservable : Obligations.StaleStackEntriesAreUnobservable :=
  fun _ _ _ h hs => h.boundary.instructionStep hs

end Sys2Proof
end

section
/-! ## The state family: the invariant, memory at reset, timers (10_state.md R27, R33, R43 to R46) -/

namespace Sys2Proof.Config

/-! ### Admissible parameters (log entry 28) -/

theorem Params.fetchHi_lt {p : Params} (h : p.wf = true) : p.fetchHi < 0x1000 := by
  simp only [Params.wf, memSize, Bool.and_eq_true, decide_eq_true_eq] at h
  exact h.1.1

theorem Params.font_le_storeLo {p : Params} (h : p.wf = true) : 0x0A0 ≤ p.storeLo := by
  simp only [Params.wf, fontBase, Bool.and_eq_true, decide_eq_true_eq] at h
  exact h.1.2

end Sys2Proof.Config

namespace Sys2Proof.Machine

/-! ### The invariant (R27, R102) -/

/-- A host operation resumes a suspended Fx0A past its word, or leaves pc and at most halts the core (R241 to R243). -/
theorem State.applyOp_control (s : State) (op : HostOp) :
    (∃ x, s.run = .awaitingKey x ∧ (s.applyOp op).pc = s.pc + 2 ∧ (s.applyOp op).run = .running) ∨
    ((s.applyOp op).pc = s.pc ∧ ((s.applyOp op).run = s.run ∨ ∃ reason, (s.applyOp op).run = .halted reason)) := by
  obtain ⟨-, h⟩ | ⟨k, x, -, hx, -, h⟩ | ⟨k, b, -, -, h⟩ | ⟨-, h⟩ | ⟨-, -, h⟩ | ⟨-, -, h⟩ := s.applyOp_cases op
  · exact .inr (h ▸ ⟨rfl, .inl rfl⟩)
  · exact .inl ⟨x, hx, h ▸ ⟨rfl, rfl⟩⟩
  · exact .inr (h ▸ ⟨rfl, .inl rfl⟩)
  · exact .inr ⟨by rw [h], .inl (by rw [h])⟩
  · exact .inr ⟨by rw [h], .inl (by rw [h])⟩
  · exact .inr (h ▸ ⟨rfl, .inr ⟨.stopped, rfl⟩⟩)

theorem State.Inv.applyOp {s : State} (h : s.Inv) (op : HostOp) : (s.applyOp op).Inv where
  params_wf := by rw [State.applyOp_params]; exact h.params_wf
  mem_wf := by rw [State.applyOp_mem, State.applyOp_params]; exact h.mem_wf
  stack_le := by rw [State.applyOp_stack]; exact h.stack_le
  pc_le := by
    obtain ⟨x, hx, hpc, -⟩ | ⟨hpc, -⟩ := s.applyOp_control op
    · have := h.waiting_le x hx
      rw [hpc]
      bv_omega
    · rw [hpc]
      exact h.pc_le
  waiting_le := by
    intro y hy
    obtain ⟨x, -, -, hr⟩ | ⟨hpc, hr | ⟨reason, hr⟩⟩ := s.applyOp_control op
    · rw [hr] at hy
      cases hy
    · rw [hpc]
      exact h.waiting_le y (hr ▸ hy)
    · rw [hr] at hy
      cases hy

/-- The invariant does not speak of the schedule. -/
theorem State.Inv.boundary {s : State} (h : s.Inv) : s.boundary.Inv := by
  obtain ⟨-, e⟩ | ⟨ops, rest, -, e⟩ := s.boundary_cases
  · rwa [e]
  · have h' : State.Inv { s with host := rest } := ⟨h.params_wf, h.mem_wf, h.pc_le, h.stack_le, h.waiting_le⟩
    rw [e]
    exact State.applyOps_induct (P := fun u v => u.Inv → v.Inv) (fun _ => id) (fun hst htu hs => htu (hst hs))
      (fun op _ _ hs => hs.applyOp op) _ h'

theorem State.Inv.halt {s : State} (h : s.Inv) (reason : HaltReason) : (s.halt reason).Inv :=
  ⟨h.params_wf, h.mem_wf, h.pc_le, h.stack_le, by simp⟩

/-- The bound of R27: the farthest successor is V0 + nnn. -/
theorem State.Successor.toNat_le {s : State} {a : Word} (h : s.Successor a) (hpc : s.pc.toNat ≤ 0xFFE)
    (hst : ∀ j : Fin 16, (s.stack.get j).toNat ≤ 0xFFE) : a.toNat ≤ 0x10FE := by
  cases h with
  | next | skip => bv_omega
  | target nnn =>
    have := nnn.isLt
    rw [zext16_toNat]
    omega
  | indexed nnn =>
    have := nnn.isLt
    have := (s.reg 0).isLt
    rw [BitVec.toNat_add, zext16_toNat, BitVec.toNat_setWidth]
    omega
  | popped j =>
    have := hst j
    omega

/-- What an instruction keeps, run from a fetched address. -/
theorem State.Inv.exec {i : Instr} {s t : State} (h : s.Inv) (hrun : s.run = .running) (hpc : s.pc.toNat ≤ 0xFFE)
    (he : exec i s = .next t) : t.Inv where
  params_wf := by
    rw [exec_keepsOutside he .params (params_not_mem_writesParts i)]
    exact h.params_wf
  mem_wf := by
    rw [exec_keepsOutside he .params (params_not_mem_writesParts i)]
    obtain hm | ⟨vs, hm, -, hhi⟩ := exec_storesInWindow he
    · rw [hm]
      exact h.mem_wf
    · rw [hm]
      exact Memory.wf_writeBytes vs h.mem_wf hhi
  pc_le := by
    cases exec_goes he with
    | halted | suspended => exact h.pc_le
    | on _ ha => exact ha.toNat_le hpc h.stack_le
  stack_le := by
    intro j
    obtain hs | ⟨hsp, hs⟩ := exec_stack_cases he
    · rw [hs]
      exact h.stack_le j
    · rw [hs, Vector.get_eq_getElem, Vector.getElem_set]
      split_ifs
      · exact hpc
      · exact h.stack_le j
  waiting_le := by
    intro x hx
    cases exec_goes he with
    | halted => simp at hx
    | suspended => exact hpc
    | on hr _ => simp [hr, hrun] at hx

/-- A fetch is legal only below the last byte of memory (R71). -/
theorem State.pc_le_of_fetchDecode {s : State} {i : Instr} (hp : s.params.wf = true) (h : s.fetchDecode = .ok i) :
    s.pc.toNat ≤ 0xFFE := by
  have := (State.legal_of_fetchDecode h).1.2
  have := Config.Params.fetchHi_lt hp
  omega

theorem State.Inv.instructionStep {s t : State} (h : s.Inv) (hs : s.instructionStep = .next t) : t.Inv := by
  obtain ⟨hr, i, hi, he⟩ | ⟨-, reason, -, rfl⟩ | ⟨-, rfl⟩ := State.instructionStep_cases hs
  · exact h.exec hr (State.pc_le_of_fetchDecode h.params_wf hi) he
  · exact h.halt reason
  · exact h

theorem State.resetWith_inv {p : Config.Params} (hp : p.wf = true) : (State.resetWith p).Inv where
  params_wf := hp
  mem_wf := rfl
  pc_le := (by decide : (0x200 : Word).toNat ≤ 0x10FE)
  stack_le := by simp [State.resetWith, Vector.get_eq_getElem]
  waiting_le := by simp [State.resetWith]

/-- A ROM that loads lies in the address space (R53, R240). -/
theorem State.Inv.loadRom {s t : State} {rom : List Byte} (h : s.Inv) (hl : loadRom rom s = .ok t) : t.Inv := by
  unfold Machine.loadRom at hl
  split_ifs at hl with hlen
  cases hl
  refine ⟨h.params_wf, Memory.wf_writeBytes rom h.mem_wf ?_, h.pc_le, h.stack_le, h.waiting_le⟩
  simp only [Config.maxRom, Config.programBase, Config.memSize] at hlen ⊢
  omega

/-! ### Memory below `STORE_LO` and at reset (R43 to R45) -/

/-- Stores begin at `STORE_LO` (20_memory.md R57). -/
theorem exec_read_of_lt_storeLo {i : Instr} {s t : State} {a : Nat} (h : exec i s = .next t)
    (ha : a < s.params.storeLo) : t.read a = s.read a := by
  have hp : t.params = s.params := exec_keepsOutside h .params (params_not_mem_writesParts i)
  obtain hm | ⟨vs, hm, hlo, -⟩ := exec_storesInWindow h
  · exact State.read_congr hm hp a
  · rw [State.read, hm, hp]
    exact Memory.read_writeBytes_outside s.mem s.I.toNat a vs (.inl (by omega))

theorem step_read_of_lt_storeLo {s t : State} {a : Nat} (h : step s = .next t) (ha : a < s.params.storeLo) :
    t.read a = s.read a := by
  rw [← s.boundary_read]
  obtain ⟨-, i, -, he⟩ | ⟨-, reason, -, rfl⟩ | ⟨-, rfl⟩ := State.instructionStep_cases h
  · exact exec_read_of_lt_storeLo he (s.boundary_params ▸ ha)
  · rfl
  · rfl

/-- Byte `j` of glyph `d` (R44). -/
theorem Memory.unlisted_glyph (font : Config.Font) (d : Fin 16) (j : Fin 5) :
    Memory.unlisted font (0x050 + 5 * d.val + j.val) = (font.get d).get j := by
  have hd : (0x050 + 5 * d.val + j.val - Config.fontBase) / 5 = d.val := by simp only [Config.fontBase]; omega
  have hj : (0x050 + 5 * d.val + j.val - Config.fontBase) % 5 = j.val := by simp only [Config.fontBase]; omega
  rw [Memory.unlisted, dif_pos (by simp only [Config.fontBase]; omega)]
  simp only [hd, hj, Vector.get_eq_getElem]

theorem Memory.unlisted_outside (font : Config.Font) {a : Nat} (h : a < 0x050 ∨ 0x0A0 ≤ a) :
    Memory.unlisted font a = 0 := by
  rw [Memory.unlisted, dif_neg (by simp only [Config.fontBase]; omega)]

/-! ### The delay timer (R33, R241) -/

theorem State.applyOp_DT_le (s : State) (op : HostOp) : (s.applyOp op).DT.toNat ≤ s.DT.toNat := by
  obtain ⟨-, h⟩ | ⟨k, x, -, -, -, h⟩ | ⟨k, b, -, -, h⟩ | ⟨-, h⟩ | ⟨-, -, h⟩ | ⟨-, -, h⟩ := s.applyOp_cases op <;>
    simp [h]

theorem State.applyOp_DT {op : HostOp} (hop : op ≠ .tick) (s : State) : (s.applyOp op).DT = s.DT := by
  obtain ⟨h, -⟩ | ⟨k, x, -, -, -, h⟩ | ⟨k, b, -, -, h⟩ | ⟨-, h⟩ | ⟨-, -, h⟩ | ⟨-, -, h⟩ := s.applyOp_cases op
  · exact absurd h hop
  all_goals simp [h]

theorem State.boundary_DT_le (s : State) : s.boundary.DT.toNat ≤ s.DT.toNat := by
  obtain ⟨-, h⟩ | ⟨ops, rest, -, h⟩ := s.boundary_cases
  · rw [h]
  · rw [h]
    exact State.applyOps_induct (P := fun u v => v.DT.toNat ≤ u.DT.toNat) (fun _ => le_rfl)
      (fun hst htu => htu.trans hst) (fun op _ u => u.applyOp_DT_le op) { s with host := rest }

theorem State.boundary_DT {s : State} (hq : ∀ ops ∈ s.host.head?, HostOp.tick ∉ ops) : s.boundary.DT = s.DT := by
  obtain ⟨-, h⟩ | ⟨ops, rest, hh, h⟩ := s.boundary_cases
  · rw [h]
  · have hops : HostOp.tick ∉ ops := hq ops (by rw [hh]; rfl)
    rw [h]
    exact State.applyOps_induct (P := fun u v => v.DT = u.DT) (fun _ => rfl) (fun hst htu => htu.trans hst)
      (fun op ho u => State.applyOp_DT (fun ht => hops (ht ▸ ho)) u) { s with host := rest }

/-- Fx15 alone writes DT. -/
theorem exec_DT {i : Instr} {s t : State} (hi : ∀ x, i ≠ .ldDtV x) (h : exec i s = .next t) : t.DT = s.DT := by
  refine exec_keepsOutside h .DT ?_
  cases i with
  | ldDtV x => exact absurd rfl (hi x)
  | _ => simp [Instr.writesParts]

theorem State.instructionStep_DT {s t : State} (h : s.instructionStep = .next t)
    (hi : ∀ x, s.run = .running → s.fetchDecode ≠ .ok (.ldDtV x)) : t.DT = s.DT := by
  obtain ⟨hr, i, hf, he⟩ | ⟨-, reason, -, rfl⟩ | ⟨-, rfl⟩ := State.instructionStep_cases h
  · exact exec_DT (fun x hx => hi x hr (hx ▸ hf)) he
  · rfl
  · rfl

/-! ### The sound timer and the framebuffer (R34, R37) -/

theorem changesOnly_refl (parts : List Part) (s : State) : ChangesOnly parts s s := by
  intro p _
  cases p <;> simp [Part.Same]

/-- The overlay that exchanges ST and nothing else. -/
def Overlay.ofST (st : Byte) : Overlay := ⟨some st, none, none⟩

/-- The overlay that exchanges the framebuffer and nothing else. -/
def Overlay.ofFb (fb : Framebuffer) : Overlay := ⟨none, some fb, none⟩

theorem Overlay.changesOnly_ofST (st : Byte) (s : State) : ChangesOnly [.ST] s ((Overlay.ofST st).on s) :=
  (keepsOutside_setST s st).changesOnly (by decide)

theorem Overlay.changesOnly_ofFb (fb : Framebuffer) (s : State) : ChangesOnly [.fb] s ((Overlay.ofFb fb).on s) :=
  (keepsOutside_setFb s fb).changesOnly (by decide)

theorem Overlay.unusedBy_ofST (st : Byte) {i : Instr} (hi : ∀ x, i ≠ .ldStV x) : (Overlay.ofST st).UnusedBy i := by
  cases i with
  | ldStV x => exact absurd rfl (hi x)
  | cls | drw | ret | call => rfl
  | _ => trivial

theorem Overlay.unusedBy_ofFb (fb : Framebuffer) {i : Instr} (hd : ∀ x y n, i ≠ .drw x y n) (hc : i ≠ .cls) :
    (Overlay.ofFb fb).UnusedBy i := by
  cases i with
  | drw x y n => exact absurd rfl (hd x y n)
  | cls => exact absurd rfl hc
  | ldStV | ret | call => rfl
  | _ => trivial

end Sys2Proof.Machine

namespace Sys2Proof

open Machine

/-- Settles O57: the boundary moves pc only past a suspended Fx0A, and an instruction runs only from a fetched
address, from which no successor is above V0 + nnn. -/
theorem everyStepKeepsTheInvariant : Obligations.EveryStepKeepsTheInvariant :=
  fun _ _ h hs => h.boundary.instructionStep hs

/-- Settles O58: the base case of O57. -/
theorem invariantHoldsAtLaunch : Obligations.InvariantHoldsAtLaunch :=
  ⟨State.resetWith_inv (by decide), fun _ hp =>
    ⟨State.resetWith_inv hp, fun _ _ hl => (State.resetWith_inv hp).loadRom hl⟩⟩

/-- Settles O59. -/
theorem noStepWritesTheReservedRegion : Obligations.NoStepWritesTheReservedRegion := by
  refine fun s t a h => ⟨step_read_of_lt_storeLo h, fun hp ha => ?_, fun hp ha => ?_⟩
  · exact step_read_of_lt_storeLo h (ha.trans_le (Config.Params.font_le_storeLo hp))
  · exact step_read_of_lt_storeLo h (by rw [hp]; exact ha)

/-- Settles O48: the boundary can only count DT down, and only by a tick; the instruction leaves it. -/
theorem delayTimerNeverRisesByItself : Obligations.DelayTimerNeverRisesByItself := by
  intro s t h hi
  have hDT : t.DT = s.boundary.DT := State.instructionStep_DT h hi
  exact ⟨hDT ▸ s.boundary_DT_le, fun hq => hDT.trans (State.boundary_DT hq)⟩

/-- Settles O16: what an instruction does not use is carried along; Fx18 and 00E0 replace it without reading it. -/
theorem screenAndSoundTimerAreNotReadByOthers : Obligations.ScreenAndSoundTimerAreNotReadByOthers := by
  refine ⟨fun i s t st h => ?_, fun i s t fb hd h => ?_⟩
  · by_cases hi : ∃ x, i = .ldStV x
    · obtain ⟨x, rfl⟩ := hi
      cases h
      exact ⟨_, rfl, changesOnly_refl _ _, fun _ => rfl, fun hx => absurd rfl (hx x)⟩
    · have hi : ∀ x, i ≠ .ldStV x := fun x hx => hi ⟨x, hx⟩
      exact ⟨_, Overlay.exec_on (Overlay.unusedBy_ofST st hi) h, Overlay.changesOnly_ofST st t,
        fun ⟨x, hx⟩ => absurd hx (hi x), fun _ => rfl⟩
  · by_cases hc : i = .cls
    · subst hc
      cases h
      exact ⟨_, rfl, changesOnly_refl _ _, fun _ => rfl, fun hx => absurd rfl hx⟩
    · exact ⟨_, Overlay.exec_on (Overlay.unusedBy_ofFb fb hd hc) h, Overlay.changesOnly_ofFb fb t,
        fun hx => absurd hx hc, fun _ => rfl⟩

/-- Settles O42: the glyph's five bytes lie in the reserved region, at the address Fx29 computes. -/
theorem fontAddressSelectsTheGlyph : Obligations.FontAddressSelectsTheGlyph := by
  refine fun s x d hres hd => ⟨_, rfl, ?_⟩
  refine List.ext_getElem (by simp [State.sprite]) fun j hj _ => ?_
  have hj : j < 5 := by simpa [State.sprite] using hj
  calc ((s.setI (glyphAddr (s.reg x))).advance.sprite 5)[j]
      = s.read ((glyphAddr (s.reg x)).toNat + j) := Memory.getElem_readBytes _ _ _ _ _
    _ = s.read (0x050 + 5 * d.val + j) := by rw [glyphAddr_toNat, hd]
    _ = Memory.unlisted s.params.font (0x050 + 5 * d.val + j) := hres _ (by omega)
    _ = (s.params.font.get d).get ⟨j, hj⟩ := Memory.unlisted_glyph _ d ⟨j, hj⟩
    _ = (s.params.font.get d).toList[j] := by simp [Vector.get_eq_getElem]

/-- Settles O56: after reset nothing is listed in memory, so every byte reads as `Memory.unlisted`. -/
theorem resetState : Obligations.ResetState := by
  refine ⟨?_, rfl, rfl, rfl, rfl, rfl, rfl⟩
  rintro p _ rfl
  have hreg : ∀ x : Reg, (State.resetWith p).reg x = 0 := fun x => by simp [State.resetWith, State.reg_def]
  have hstack : ∀ j : Fin 16, (State.resetWith p).stack.get j = 0 := fun j => by
    simp [State.resetWith, Vector.get_eq_getElem]
  have hkeys : ∀ k : Fin 16, (State.resetWith p).keys.get k = false := fun k => by
    simp [State.resetWith, Vector.get_eq_getElem]
  exact ⟨hreg, rfl, rfl, hstack, rfl, rfl, rfl, hkeys, Framebuffer.pixel_clear, Memory.unlisted_glyph p.font,
    fun a => Memory.unlisted_outside p.font, rfl, rfl⟩

end Sys2Proof
end

section
/-! ## The memory family: window checks, the byte order of a word, stored code, the host (20_memory.md R54 to R66) -/

namespace Sys2Proof.Machine

/-! ### The window of a whole range (R57) -/

/-- A range of at least one byte ends at or below `hi` exactly when each of its addresses does. -/
theorem range_le_iff {a k hi : Nat} (hk : 1 ≤ k) : a + k - 1 ≤ hi ↔ ∀ j, j < k → a + j ≤ hi := by
  constructor
  · intro h j hj
    omega
  · intro h
    have last := h (k - 1) (by omega)
    omega

/-- A range of at least one byte starts at or above `lo` exactly when each of its addresses is. -/
theorem le_range_iff {a k lo : Nat} (hk : 1 ≤ k) : lo ≤ a ↔ ∀ j, j < k → lo ≤ a + j :=
  ⟨fun h j _ => h.trans (Nat.le_add_right a j), fun h => h 0 hk⟩

theorem checkRead_eq_none_iff_forall {i : Word} {k : Nat} (hk : 1 ≤ k) :
    checkRead i k = none ↔ ∀ j, j < k → i.toNat + j ≤ 0xFFF := by
  rw [checkRead_eq_none, range_le_iff hk]

theorem checkWrite_eq_none_iff_forall {lo k : Nat} {i : Word} (hk : 1 ≤ k) :
    checkWrite lo i k = none ↔ ∀ j, j < k → lo ≤ i.toNat + j ∧ i.toNat + j ≤ 0xFFF := by
  rw [checkWrite_eq_none, le_range_iff hk, range_le_iff hk]
  exact forall₂_and.symm

/-- A failing write check records the least address of the range that is outside the window. -/
theorem checkWrite_records_least {lo k : Nat} {i : Word} {r : HaltReason} (hk : 1 ≤ k)
    (h : checkWrite lo i k = some r) :
    ∃ j, j < k ∧ r = .invalidAddress (i.toNat + j) ∧ (i.toNat + j < lo ∨ 0xFFF < i.toNat + j) ∧
      ∀ l, l < j → lo ≤ i.toNat + l ∧ i.toNat + l ≤ 0xFFF := by
  obtain ⟨hlo, rfl⟩ | ⟨hlo, hhi, rfl⟩ := checkWrite_eq_some.1 h
  · exact ⟨0, hk, rfl, .inl hlo, fun l hl => absurd hl (Nat.not_lt_zero l)⟩
  · have first : i.toNat + (0x1000 - i.toNat) = max i.toNat 0x1000 := by omega
    exact ⟨0x1000 - i.toNat, by omega, by rw [first], by omega, fun l hl => by omega⟩

/-! ### The bytes of a fetched word (R54) -/

/-- One stored byte, seen through every read. -/
theorem State.read_writeBytes_singleton (s : State) (a b : Nat) (v : Byte) :
    (s.writeBytes a [v]).read b = if a = b then v else s.read b :=
  Memory.read_write s.mem a b v

@[simp] theorem State.hiByte_wordAt (s : State) (p : Nat) : hiByte (s.wordAt p) = s.read p :=
  hiByte_wordOfBytes _ _

@[simp] theorem State.loByte_wordAt (s : State) (p : Nat) : loByte (s.wordAt p) = s.read (p + 1) :=
  loByte_wordOfBytes _ _

/-! ### Bytes that Fx55 stored (R154) -/

/-- Inside its window Fx55 stores the block and goes on. -/
theorem execLdMiV_of_window {s : State} {x : Reg} (hlo : s.params.storeLo ≤ s.I.toNat)
    (hhi : s.I.toNat + x.val ≤ 0xFFF) : execLdMiV x s = .next (s.store (s.regBlock x)).advance := by
  have hc : checkWrite s.params.storeLo s.I (x.val + 1) = none := checkWrite_eq_none.2 ⟨hlo, hhi⟩
  rw [execLdMiV, hc, guarded_none]

/-- Byte `j` of the stored block is V[j]. -/
theorem State.read_store_regBlock (s : State) {x j : Reg} (hj : j ≤ x) :
    (s.store (s.regBlock x)).read (s.dataAddr j.val) = s.reg j := by
  have hlen : j.val < (s.regBlock x).length := by
    rw [State.length_regBlock]
    exact Nat.lt_succ_of_le hj
  rw [State.read_store_inside s j.val hlen, State.getElem_regBlock s hlen j.isLt]

/-- The word at byte `j` of the stored block is that of V[j] and V[j + 1]. -/
theorem State.wordAt_store_regBlock (s : State) {x j : Reg} (hj : j < x) :
    (s.store (s.regBlock x)).wordAt (s.dataAddr j.val) = wordOfBytes (s.reg j) (s.reg (j + 1)) := by
  have hsucc : (j + 1).val = j.val + 1 := Fin.val_add_one_of_lt (hj.trans_le (Fin.le_last x))
  have hnext : s.dataAddr j.val + 1 = s.dataAddr (j + 1).val := by
    rw [hsucc]
    rfl
  have hle : j + 1 ≤ x := by
    rw [Fin.le_def, hsucc]
    exact hj
  rw [State.wordAt, hnext, s.read_store_regBlock hj.le, s.read_store_regBlock hle]

/-! ### What the host reaches (R66, R242, R249) -/

theorem keepsOutside_refl (ps : List Part) (s : State) : KeepsOutside ps s s := by
  intro p _
  cases p <;> rfl

theorem keepsOutside_tick (s : State) : KeepsOutside [.DT, .ST] s s.tick :=
  (keepsOutside_setDT s _).trans (keepsOutside_setST _ _)

theorem keepsOutside_writeKey (s : State) (k : Fin 16) (pressed : Bool) :
    KeepsOutside [.keys] s (s.writeKey k pressed) := by
  intro p hp
  cases p <;> simp [Part.Kept] at hp ⊢

theorem keepsOutside_resume (s : State) (x : Reg) (k : Fin 16) : KeepsOutside [.V, .pc, .run] s (s.resume x k) := by
  intro p hp
  cases p <;> simp [Part.Kept] at hp ⊢

/-- A host operation resumes a suspended Fx0A, or reaches only timers, keys and `run`. -/
theorem State.applyOp_reach (s : State) (op : HostOp) :
    ((∃ x, s.run = .awaitingKey x) ∧ KeepsOutside [.V, .pc, .keys, .run] s (s.applyOp op)) ∨
    KeepsOutside [.DT, .ST, .keys, .run] s (s.applyOp op) := by
  obtain ⟨-, h⟩ | ⟨k, x, -, hx, -, h⟩ | ⟨k, b, -, -, h⟩ | ⟨-, h⟩ | ⟨-, -, h⟩ | ⟨-, -, h⟩ := s.applyOp_cases op <;>
    rw [h]
  · exact .inr ((keepsOutside_tick s).mono (by decide))
  · exact .inl ⟨⟨x, hx⟩, ((keepsOutside_writeKey s k true).trans (keepsOutside_resume _ x k)).mono (by decide)⟩
  · exact .inr ((keepsOutside_writeKey s k b).mono (by decide))
  · exact .inr (keepsOutside_refl _ s)
  · exact .inr (keepsOutside_refl _ s)
  · exact .inr ((keepsOutside_halt s .stopped).mono (by decide))

theorem State.applyOp_keepsOutside (s : State) (op : HostOp) :
    KeepsOutside [.V, .pc, .DT, .ST, .keys, .run] s (s.applyOp op) := by
  obtain ⟨-, h⟩ | h := s.applyOp_reach op <;> exact h.mono (by decide)

theorem State.applyOps_keepsOutside (s : State) (ops : List HostOp) :
    KeepsOutside [.V, .pc, .DT, .ST, .keys, .run] s (s.applyOps ops) :=
  State.applyOps_induct (keepsOutside_refl _) (fun h k => (h.trans k).mono (by decide))
    (fun op _ u => u.applyOp_keepsOutside op) s

/-- No host operation suspends the core. -/
theorem State.applyOp_not_awaiting {s : State} (h : ∀ x, s.run ≠ .awaitingKey x) (op : HostOp) :
    ∀ x, (s.applyOp op).run ≠ .awaitingKey x := by
  intro x
  obtain ⟨y, hy, -, -⟩ | ⟨-, hr | ⟨reason, hr⟩⟩ := s.applyOp_control op
  · exact absurd hy (h y)
  · exact hr ▸ h x
  · simp [hr]

theorem State.applyOps_keepsOutside_of_not_awaiting {s : State} (h : ∀ x, s.run ≠ .awaitingKey x)
    (ops : List HostOp) : KeepsOutside [.DT, .ST, .keys, .run] s (s.applyOps ops) := by
  induction ops generalizing s with
  | nil => exact keepsOutside_refl _ s
  | cons op ops ih =>
    obtain ⟨⟨x, hx⟩, -⟩ | hop := s.applyOp_reach op
    · exact absurd hx (h x)
    · exact (hop.trans (ih (State.applyOp_not_awaiting h op))).mono (by decide)

end Sys2Proof.Machine

namespace Sys2Proof

open Machine

/-- Settles O35. -/
theorem windowChecksCoverTheWholeRange : Obligations.WindowChecksCoverTheWholeRange :=
  fun _ _ _ hk => ⟨checkRead_eq_none_iff_forall hk, fun _ h => (checkRead_eq_some.1 h).2,
    checkWrite_eq_none_iff_forall hk, fun _ h => checkWrite_records_least hk h⟩

/-- Settles O36: each half of a word is one read, and a read sees a store at its own address only. -/
theorem storeChangesOneHalfOfTheFetchedWord : Obligations.StoreChangesOneHalfOfTheFetchedWord := by
  intro s a p v
  simp only [State.hiByte_wordAt, State.loByte_wordAt]
  exact ⟨s.read_writeBytes_singleton a p v, s.read_writeBytes_singleton a (p + 1) v, wordOfBytes_toNat _ _⟩

/-- Settles O37: the fetch reads memory as Fx55 left it. -/
theorem storedInstructionIsFetchedAtOnce : Obligations.StoredInstructionIsFetchedAtOnce := by
  intro s t x j p hlo hhi hexec hj hp hfetchLo hfetchHi
  have ht : execLdMiV x s = .next t := hexec
  rw [execLdMiV_of_window hlo hhi] at ht
  cases ht
  rw [State.fetch_of_legal ⟨hfetchLo, hfetchHi⟩, State.jump_pc, hp]
  exact congrArg Except.ok (s.wordAt_store_regBlock hj)

/-- Settles O54: the frame of one operation, composed along the list; an operation never makes the core wait, so the
sharper frame composes too. -/
theorem hostOperationsReachOnlyTheirParts : Obligations.HostOperationsReachOnlyTheirParts :=
  fun ops s => ⟨(s.applyOps_keepsOutside ops).changesOnly (by decide),
    fun h => (State.applyOps_keepsOutside_of_not_awaiting h ops).changesOnly (by decide)⟩

end Sys2Proof
end

section
/-! ## The encoding family: fields, formats and the decoder (30_encoding.md R73 to R79) -/

namespace Sys2Proof

/-! ### The fields of a format (R73, R74) -/

@[simp] theorem Field.opcode_formNNN (op : BitVec 4) (a : Addr12) : Field.opcode (formNNN op a) = op := by
  apply BitVec.eq_of_toNat_eq
  rw [Field.opcode_toNat, formNNN_toNat]
  omega

@[simp] theorem Field.nnn_formNNN (op : BitVec 4) (a : Addr12) : Field.nnn (formNNN op a) = a := by
  apply BitVec.eq_of_toNat_eq
  rw [Field.nnn_toNat, formNNN_toNat]
  omega

@[simp] theorem Field.opcode_formXKK (op : BitVec 4) (x : Reg) (kk : Byte) : Field.opcode (formXKK op x kk) = op := by
  apply BitVec.eq_of_toNat_eq
  rw [Field.opcode_toNat, formXKK_toNat]
  omega

@[simp] theorem Field.x_formXKK (op : BitVec 4) (x : Reg) (kk : Byte) : Field.x (formXKK op x kk) = x := by
  apply Fin.ext
  rw [Field.x_val, formXKK_toNat]
  omega

@[simp] theorem Field.kk_formXKK (op : BitVec 4) (x : Reg) (kk : Byte) : Field.kk (formXKK op x kk) = kk := by
  apply BitVec.eq_of_toNat_eq
  rw [Field.kk_toNat, formXKK_toNat]
  omega

@[simp] theorem Field.opcode_formXYN (op : BitVec 4) (x y : Reg) (n : BitVec 4) :
    Field.opcode (formXYN op x y n) = op := by
  apply BitVec.eq_of_toNat_eq
  rw [Field.opcode_toNat, formXYN_toNat]
  omega

@[simp] theorem Field.x_formXYN (op : BitVec 4) (x y : Reg) (n : BitVec 4) : Field.x (formXYN op x y n) = x := by
  apply Fin.ext
  rw [Field.x_val, formXYN_toNat]
  omega

@[simp] theorem Field.y_formXYN (op : BitVec 4) (x y : Reg) (n : BitVec 4) : Field.y (formXYN op x y n) = y := by
  apply Fin.ext
  rw [Field.y_val, formXYN_toNat]
  omega

@[simp] theorem Field.n_formXYN (op : BitVec 4) (x y : Reg) (n : BitVec 4) : Field.n (formXYN op x y n) = n := by
  apply BitVec.eq_of_toNat_eq
  rw [Field.n_toNat, formXYN_toNat]
  omega

/-- `XFF` is `XKK` with a fixed low byte. -/
@[simp] theorem formXFF_eq_formXKK (op : BitVec 4) (x : Reg) (f : Byte) : formXFF op x f = formXKK op x f := rfl

/-! ### A word is the format of its fields -/

theorem formNNN_fields (w : Word) : formNNN (Field.opcode w) (Field.nnn w) = w := by
  apply BitVec.eq_of_toNat_eq
  rw [formNNN_toNat, Field.opcode_toNat, Field.nnn_toNat]
  omega

theorem formXKK_fields (w : Word) : formXKK (Field.opcode w) (Field.x w) (Field.kk w) = w := by
  apply BitVec.eq_of_toNat_eq
  rw [formXKK_toNat, Field.opcode_toNat, Field.x_val, Field.kk_toNat]
  omega

theorem formXYN_fields (w : Word) : formXYN (Field.opcode w) (Field.x w) (Field.y w) (Field.n w) = w := by
  apply BitVec.eq_of_toNat_eq
  rw [formXYN_toNat, Field.opcode_toNat, Field.x_val, Field.y_val, Field.n_toNat]
  omega

/-! ### Decode after encode (R76, R79) -/

theorem ofNat_val_eq_regField (r : Reg) : BitVec.ofNat 4 r.val = regField r :=
  BitVec.eq_of_toNat_eq (by rw [BitVec.toNat_ofNat, regField_toNat, Nat.mod_eq_of_lt r.isLt])

/-- 5xyn executes as 5xy0. -/
theorem decode_5xyn (x y : Reg) (n : BitVec 4) : decode (formXYN 0x5#4 x y n) = .ok (.seVV x y) := by
  simp [decode]

/-- 9xyn executes as 9xy0. -/
theorem decode_9xyn (x y : Reg) (n : BitVec 4) : decode (formXYN 0x9#4 x y n) = .ok (.sneVV x y) := by
  simp [decode]

/-- 8xy6 ignores y. -/
theorem decode_8xy6 (x y : Reg) : decode (formXYN 0x8#4 x y 0x6#4) = .ok (.shrV x) := by
  simp [decode, decodeFamily8]

/-- 8xyE ignores y. -/
theorem decode_8xyE (x y : Reg) : decode (formXYN 0x8#4 x y 0xE#4) = .ok (.shlV x) := by
  simp [decode, decodeFamily8]

theorem decode_encode {i : Instr} (h : i.wf = true) : decode (encode i) = .ok i := by
  cases i with
  | cls | ret => rfl
  | jp | call | ldI | jpV0 => simp [encode, decode]
  | seVkk | sneVkk | ldVkk | addVkk | rnd => simp [encode, decode]
  | seVV x y => exact decode_5xyn x y 0
  | sneVV x y => exact decode_9xyn x y 0
  | shrV x => exact decode_8xy6 x 0
  | shlV x => exact decode_8xyE x 0
  | ldVV | orVV | andVV | xorVV | addVV | subVV | subnVV => simp [encode, decode, decodeFamily8]
  | drw x y n =>
    have hn : n < 16 := Nat.lt_succ_of_le (of_decide_eq_true h)
    simp [encode, decode, Nat.mod_eq_of_lt hn]
  | skp | sknp => simp [encode, decode, decodeFamilyE]
  | ldVDt | ldVKey | ldDtV | ldStV | addIV | ldFV | ldBV | ldMiV | ldVMi => simp [encode, decode, decodeFamilyF]

theorem decodeBytes_encodeBytes {i : Instr} (rest : List Byte) (h : i.wf = true) :
    decodeBytes (encodeBytes i ++ rest) = .ok (i, rest) := by
  rw [encodeBytes, List.cons_append, List.cons_append, List.nil_append, decodeBytes_cons, wordOfBytes_hiByte_loByte,
    decode_encode h]
  rfl

/-! ### Masked words: a mask of the opcode table keeps the fields that select the row (R76) -/

theorem formNNN_and_0xF000 (op : BitVec 4) (a : Addr12) : formNNN op a &&& 0xF000#16 = formNNN op 0 := by
  have h : (op ++ a) &&& (BitVec.allOnes 4 ++ 0#12) = op ++ 0#12 := by
    simp only [BitVec.and_append, BitVec.and_allOnes, BitVec.and_zero]
  exact h

theorem formXKK_and_0xF0FF (op : BitVec 4) (x : Reg) (kk : Byte) :
    formXKK op x kk &&& 0xF0FF#16 = formXKK op 0 kk := by
  have h : (op ++ regField x ++ kk) &&& (BitVec.allOnes 4 ++ 0#4 ++ BitVec.allOnes 8) = op ++ 0#4 ++ kk := by
    simp only [BitVec.and_append, BitVec.and_allOnes, BitVec.and_zero]
  exact h

theorem formXYN_and_0xF00F (op : BitVec 4) (x y : Reg) (n : BitVec 4) :
    formXYN op x y n &&& 0xF00F#16 = formXYN op 0 0 n := by
  have h : (op ++ regField x ++ regField y ++ n) &&& (BitVec.allOnes 4 ++ 0#4 ++ 0#4 ++ BitVec.allOnes 4) =
      op ++ 0#4 ++ 0#4 ++ n := by
    simp only [BitVec.and_append, BitVec.and_allOnes, BitVec.and_zero]
  exact h

section Masks

variable {w : Word} {op : Nat} (hop : (Field.opcode w).toNat = op)
include hop

theorem and_0xF000_of_opcode : w &&& 0xF000#16 = formNNN (BitVec.ofNat 4 op) 0 := by
  rw [← hop, BitVec.ofNat_toNat, BitVec.setWidth_eq, ← formNNN_and_0xF000 _ (Field.nnn w), formNNN_fields]

theorem and_0xF0FF_of_kk {kk : Nat} (hkk : (Field.kk w).toNat = kk) :
    w &&& 0xF0FF#16 = formXKK (BitVec.ofNat 4 op) 0 (BitVec.ofNat 8 kk) := by
  rw [← hop, ← hkk, BitVec.ofNat_toNat, BitVec.setWidth_eq, BitVec.ofNat_toNat, BitVec.setWidth_eq,
    ← formXKK_and_0xF0FF _ (Field.x w), formXKK_fields]

theorem and_0xF00F_of_n {n : Nat} (hn : (Field.n w).toNat = n) :
    w &&& 0xF00F#16 = formXYN (BitVec.ofNat 4 op) 0 0 (BitVec.ofNat 4 n) := by
  rw [← hop, ← hn, BitVec.ofNat_toNat, BitVec.setWidth_eq, BitVec.ofNat_toNat, BitVec.setWidth_eq,
    ← formXYN_and_0xF00F _ (Field.x w) (Field.y w), formXYN_fields]

theorem and_0xFFFF_of_nnn {nnn : Nat} (hnnn : (Field.nnn w).toNat = nnn) :
    w &&& 0xFFFF#16 = formNNN (BitVec.ofNat 4 op) (BitVec.ofNat 12 nnn) := by
  rw [← hop, ← hnnn, BitVec.ofNat_toNat, BitVec.setWidth_eq, BitVec.ofNat_toNat, BitVec.setWidth_eq, formNNN_fields]
  exact BitVec.and_allOnes

end Masks

/-! ### The row of an instruction in the opcode table -/

/-- The row that bears the instruction's mnemonic. -/
def Instr.row? (i : Instr) : Option OpcodeRow := opcodeRows.find? fun row => row.mnemonic == i.mnemonic

theorem Instr.row?_eq_some {i : Instr} {row : OpcodeRow} (h : i.row? = some row) :
    row ∈ opcodeRows ∧ row.mnemonic = i.mnemonic :=
  ⟨List.mem_of_find?_eq_some h, by simpa using List.find?_some h⟩

/-- The instruction is well-formed, and the word matches the row that bears its mnemonic. -/
def MatchesRowOf (w : Word) (i : Instr) : Prop :=
  i.wf = true ∧ ∃ row, i.row? = some row ∧ w &&& row.mask = row.pattern

section Families

variable {w : Word} {i : Instr}

theorem matchesRowOf_of_decodeFamily0 (hop : (Field.opcode w).toNat = 0x0) (h : decodeFamily0 w = .ok i) :
    MatchesRowOf w i := by
  unfold decodeFamily0 at h
  split at h <;> cases h
  all_goals
    rename_i hnnn
    exact ⟨rfl, _, rfl, and_0xFFFF_of_nnn hop hnnn⟩

theorem matchesRowOf_of_decodeFamily8 (hop : (Field.opcode w).toNat = 0x8) (h : decodeFamily8 w = .ok i) :
    MatchesRowOf w i := by
  unfold decodeFamily8 at h
  split at h <;> cases h
  all_goals
    rename_i hn
    exact ⟨rfl, _, rfl, and_0xF00F_of_n hop hn⟩

theorem matchesRowOf_of_decodeFamilyE (hop : (Field.opcode w).toNat = 0xE) (h : decodeFamilyE w = .ok i) :
    MatchesRowOf w i := by
  unfold decodeFamilyE at h
  split at h <;> cases h
  all_goals
    rename_i hkk
    exact ⟨rfl, _, rfl, and_0xF0FF_of_kk hop hkk⟩

theorem matchesRowOf_of_decodeFamilyF (hop : (Field.opcode w).toNat = 0xF) (h : decodeFamilyF w = .ok i) :
    MatchesRowOf w i := by
  unfold decodeFamilyF at h
  split at h <;> cases h
  all_goals
    rename_i hkk
    exact ⟨rfl, _, rfl, and_0xF0FF_of_kk hop hkk⟩

theorem matchesRowOf_of_decode (h : decode w = .ok i) : MatchesRowOf w i := by
  unfold decode at h
  split at h
  case h_1 hop => exact matchesRowOf_of_decodeFamily0 hop h
  case h_9 hop => exact matchesRowOf_of_decodeFamily8 hop h
  case h_15 hop => exact matchesRowOf_of_decodeFamilyE hop h
  case h_16 hop => exact matchesRowOf_of_decodeFamilyF hop h
  all_goals cases h
  case h_14 hop =>
    exact ⟨decide_eq_true (Nat.le_of_lt_succ (Field.n w).isLt), _, rfl, and_0xF000_of_opcode hop⟩
  all_goals
    rename_i hop
    exact ⟨rfl, _, rfl, and_0xF000_of_opcode hop⟩

end Families

/-- Patterns of two different rows differ in a bit that both masks keep. -/
theorem opcodeRows_disjoint : ∀ row ∈ opcodeRows, ∀ other ∈ opcodeRows,
    row.pattern &&& other.mask = other.pattern &&& row.mask → other = row := by
  decide

/-- A word matches at most one row of the opcode table. -/
theorem opcodeRow_unique {w : Word} {row other : OpcodeRow} (hr : row ∈ opcodeRows) (ho : other ∈ opcodeRows)
    (hw : w &&& row.mask = row.pattern) (hw' : w &&& other.mask = other.pattern) : other = row := by
  refine opcodeRows_disjoint row hr other ho ?_
  rw [← hw, ← hw', BitVec.and_assoc, BitVec.and_assoc, BitVec.and_comm row.mask]

/-! ### The illegal words (R77) -/

theorem decodeFamily0_eq_error_iff (w : Word) : decodeFamily0 w = .error (.invalidInstruction w) ↔
    w.toNat % 0x1000 ≠ 0x0E0 ∧ w.toNat % 0x1000 ≠ 0x0EE := by
  rw [decodeFamily0, Field.nnn_toNat]
  split <;> simp_all

theorem decodeFamily8_eq_error_iff (w : Word) : decodeFamily8 w = .error (.invalidInstruction w) ↔
    w.toNat % 0x10 ∈ [0x8, 0x9, 0xA, 0xB, 0xC, 0xD, 0xF] := by
  rw [decodeFamily8, Field.n_toNat]
  split
  case h_10 => -- none of the nine nibbles of the family
    simp only [imp_false] at *
    simp only [List.mem_cons, List.not_mem_nil, true_iff]
    omega
  all_goals simp_all

theorem decodeFamilyE_eq_error_iff (w : Word) : decodeFamilyE w = .error (.invalidInstruction w) ↔
    w.toNat % 0x100 ∉ [0x9E, 0xA1] := by
  rw [decodeFamilyE, Field.kk_toNat]
  split <;> simp_all

theorem decodeFamilyF_eq_error_iff (w : Word) : decodeFamilyF w = .error (.invalidInstruction w) ↔
    w.toNat % 0x100 ∉ [0x07, 0x0A, 0x15, 0x18, 0x1E, 0x29, 0x33, 0x55, 0x65] := by
  rw [decodeFamilyF, Field.kk_toNat]
  split <;> simp_all

/-- Only four families hold illegal words. -/
theorem decode_eq_error_iff (w : Word) : decode w = .error (.invalidInstruction w) ↔
    (w.toNat / 0x1000 = 0x0 ∧ decodeFamily0 w = .error (.invalidInstruction w)) ∨
    (w.toNat / 0x1000 = 0x8 ∧ decodeFamily8 w = .error (.invalidInstruction w)) ∨
    (w.toNat / 0x1000 = 0xE ∧ decodeFamilyE w = .error (.invalidInstruction w)) ∨
    (w.toNat / 0x1000 = 0xF ∧ decodeFamilyF w = .error (.invalidInstruction w)) := by
  rw [decode, Field.opcode_toNat]
  split
  case h_17 => -- no opcode is above 0xF
    have := w.isLt
    simp only [imp_false] at *
    omega
  all_goals
    rename_i hop
    simp [hop]

/-- The decoder's only failure is InvalidInstruction with the word. -/
theorem eq_invalidInstruction_of_decode {w : Word} {e : DecodeError} (h : decode w = .error e) :
    e = .invalidInstruction w := by
  unfold decode at h
  split at h
  case h_1 => unfold decodeFamily0 at h; split at h <;> cases h; rfl
  case h_9 => unfold decodeFamily8 at h; split at h <;> cases h; rfl
  case h_15 => unfold decodeFamilyE at h; split at h <;> cases h; rfl
  case h_16 => unfold decodeFamilyF at h; split at h <;> cases h; rfl
  all_goals cases h
  rfl

end Sys2Proof

namespace Sys2Proof.Machine

/-! ### Fetch and step (R70, R71) -/

theorem State.fetchDecode_of_fetch_error {s : State} {r : HaltReason} (h : s.fetch = .error r) :
    s.fetchDecode = .error r := by
  rw [State.fetchDecode, h]

theorem State.fetchDecode_of_illegal {s : State} {w : Word} {e : DecodeError} (h : s.fetch = .ok w)
    (hd : decode w = .error e) : s.fetchDecode = .error (.invalidInstruction w) := by
  simp only [State.fetchDecode, h, hd]

theorem State.boundary_of_nil {s : State} (h : s.host = []) : s.boundary = s := by
  rw [State.boundary, h]

theorem State.boundary_of_cons {s : State} {ops : List HostOp} {rest : List (List HostOp)} (h : s.host = ops :: rest) :
    s.boundary = State.applyOps { s with host := rest } ops := by
  rw [State.boundary, h]

/-! ### The loader (log entry 8) -/

theorem tableWord_16 (w : Word) : tableWord 16 w.toNat = w := by
  rw [tableWord, Nat.mod_eq_of_lt w.isLt, BitVec.ofNat_toNat, BitVec.setWidth_eq]

theorem State.placeAt_of_legal {s : State} (h : s.params.fetchLo ≤ s.pc.toNat ∧ s.pc.toNat + 1 ≤ s.params.fetchHi) :
    s.placeAt = s.pc := by
  rw [State.placeAt, if_pos (fetchable_iff.2 h)]

/-- The loader's address is always one that a fetch may have. -/
theorem State.placeAt_legal {s : State} (hp : s.params.wf = true) (hw : s.params.fetchLo + 1 ≤ s.params.fetchHi) :
    s.params.fetchLo ≤ s.placeAt.toNat ∧ s.placeAt.toNat + 1 ≤ s.params.fetchHi := by
  by_cases h : s.params.fetchLo ≤ s.pc.toNat ∧ s.pc.toNat + 1 ≤ s.params.fetchHi
  · rwa [State.placeAt_of_legal h]
  · have hhi := Config.Params.fetchHi_lt hp
    have hlo : s.placeAt.toNat = s.params.fetchLo := by
      rw [State.placeAt, if_neg (fun hf => h (fetchable_iff.1 hf)), BitVec.toNat_ofNat]
      omega
    omega

/-- The state in which a placed word runs. -/
def State.placed (s : State) (w : Word) : State := { s.placeWord w with run := .running }

theorem State.placed_pc (s : State) (w : Word) : (s.placed w).pc = s.placeAt := rfl

theorem State.keepsOutside_placed (s : State) (w : Word) : KeepsOutside [.pc, .mem, .run] s (s.placed w) := by
  intro p hp
  cases p <;> simp [Part.Kept, State.placed, State.placeWord] at hp ⊢

theorem State.wordAt_placed (s : State) (w : Word) : (s.placed w).wordAt s.placeAt.toNat = w := by
  have hi : (s.placed w).read s.placeAt.toNat = hiByte w :=
    s.read_writeBytes_inside s.placeAt.toNat 0 (vs := [hiByte w, loByte w]) Nat.zero_lt_two
  have lo : (s.placed w).read (s.placeAt.toNat + 1) = loByte w :=
    s.read_writeBytes_inside s.placeAt.toNat 1 (vs := [hiByte w, loByte w]) Nat.one_lt_two
  rw [State.wordAt, hi, lo, wordOfBytes_hiByte_loByte]

theorem State.read_placed_outside {s : State} {w : Word} {a : Nat}
    (h : a < (s.placed w).pc.toNat ∨ (s.placed w).pc.toNat + 1 < a) : (s.placed w).read a = s.read a :=
  State.read_writeBytes_outside (a := s.placeAt.toNat) (vs := [hiByte w, loByte w]) h

/-- A quiet boundary put first is spent, and what the host had scheduled is left. -/
theorem State.boundary_quietBoundary (s : State) : State.boundary { s with host := quietBoundary s.host } = s := by
  obtain ⟨V, I, pc, stack, sp, DT, ST, keys, fb, mem, run, draws, host, params⟩ := s
  cases host <;> rfl

theorem State.boundary_withFetchWord (s : State) (w : Word) : (s.withFetchWord 16 w.toNat).boundary = s.placed w := by
  rw [State.withFetchWord, tableWord_16]
  exact (s.placed w).boundary_quietBoundary

end Sys2Proof.Machine

namespace Sys2Proof

open Machine

/-- Settles O1: the decoder reads back the fields that the format of R74 placed, and the discriminant with them. -/
theorem decodeOfEncodeIsTheInstruction : Obligations.DecodeOfEncodeIsTheInstruction :=
  fun _ rest h => ⟨decode_encode h, decodeBytes_encodeBytes rest h⟩

/-- Settles O2: the row that bears the instruction's mnemonic, and no two rows share a word. -/
theorem decodedWordLiesInItsOwnRowOnly : Obligations.DecodedWordLiesInItsOwnRowOnly := by
  intro w i h
  obtain ⟨hwf, row, hrow, hw⟩ := matchesRowOf_of_decode h
  obtain ⟨hmem, hname⟩ := Instr.row?_eq_some hrow
  exact ⟨hwf, row, hmem, hname, hw, fun _ ho hw' => opcodeRow_unique hmem ho hw hw'⟩

/-- Settles O3: four families hold illegal words, each by its own discriminant. -/
theorem illegalWordsAreExactlyTheListedOnes : Obligations.IllegalWordsAreExactlyTheListedOnes := by
  refine ⟨fun w => ?_, fun s w hr hf hd => ?_⟩
  · rw [decode_eq_error_iff, decodeFamily0_eq_error_iff, decodeFamily8_eq_error_iff, decodeFamilyE_eq_error_iff,
      decodeFamilyF_eq_error_iff]
  · exact State.instructionStep_of_error hr (State.fetchDecode_of_illegal hf hd)

/-- Settles O4: the words are `XYN` formats, decoded for every value of the ignored field. -/
theorem ignoredBitsAreIgnoredAndNothingIsReserved : Obligations.IgnoredBitsAreIgnoredAndNothingIsReserved := by
  refine ⟨fun w => ?_, fun x y n => ?_⟩
  · cases h : decode w with
    | ok i => exact .inl ⟨i, rfl⟩
    | error e => exact .inr (congrArg Except.error (eq_invalidInstruction_of_decode h))
  · rw [ofNat_val_eq_regField, ofNat_val_eq_regField]
    exact ⟨decode_5xyn x y n, decode_9xyn x y n, decode_8xy6 x y, decode_8xyE x y⟩

/-- Settles O6. -/
theorem stepRunsTheDecodedInstruction : Obligations.StepRunsTheDecodedInstruction :=
  ⟨fun _ _ hr hlo hhi hd => State.instructionStep_of_fetchDecode hr (State.fetchDecode_of_decode ⟨hlo, hhi⟩ hd),
    fun _ h => congrArg State.instructionStep (State.boundary_of_nil h),
    fun _ _ _ h => congrArg State.instructionStep (State.boundary_of_cons h)⟩

/-- Settles O7: the step runs from the placed state, whose pc is the address the loader chose. -/
theorem placedWordRunsNext : Obligations.PlacedWordRunsNext := by
  intro s w i hd hp hw
  have hfetch : (s.placed w).fetchDecode = .ok i :=
    State.fetchDecode_of_decode (State.placeAt_legal hp hw) (by rw [State.placed_pc, State.wordAt_placed, hd])
  refine ⟨s.placed w, ?_, rfl, State.placeAt_of_legal, s.wordAt_placed w, fun _ => State.read_placed_outside,
    (s.keepsOutside_placed w).changesOnly (by decide)⟩
  rw [step, State.boundary_withFetchWord, State.instructionStep_of_fetchDecode rfl hfetch]

/-- Settles O8. -/
theorem fetchReadsTheBigEndianWordOrHalts : Obligations.FetchReadsTheBigEndianWordOrHalts :=
  fun _ => ⟨fun h => ⟨_, State.fetch_of_legal h, wordOfBytes_toNat _ _⟩, fun h hr =>
    State.instructionStep_of_error hr (State.fetchDecode_of_fetch_error (State.fetch_of_illegal h))⟩

end Sys2Proof
end

section
/-! ## The control-flow family: return, jump, call and the skips (41_control_flow.md R100 to R109) -/

namespace Sys2Proof.Machine

/-! ### The frame of an operation that can raise, where it does not -/

theorem KeepsOutside.of_run_eq {ps qs : List Part} {s t : State} (h : KeepsOutside ps s t) (hs : ps ⊆ .run :: qs)
    (hr : t.run = s.run) : KeepsOutside qs s t := by
  intro p hq
  by_cases hp : p = .run
  · exact hp ▸ hr
  · exact h p fun hm => (List.mem_cons.1 (hs hm)).elim hp hq

/-! ### Jumps and skips (R101, R103 to R107) -/

theorem State.jump_changesOnly (s : State) (target : Word) : ChangesOnly [.pc] s (s.jump target) :=
  (keepsOutside_jump s target).changesOnly (by decide)

/-- Bnnn's target: the sum of V0 and nnn modulo 2^16. -/
theorem indexedTarget_toNat (v : Byte) (nnn : Addr12) :
    (v.setWidth 16 + zext16 nnn).toNat = (v.toNat + nnn.toNat) % 2 ^ 16 := by
  rw [BitVec.toNat_add, zext16_toNat, BitVec.toNat_setWidth_of_le (by decide)]

/-- A skip on a condition: pc moves past the next instruction exactly when the condition holds. -/
theorem State.skipIf_on (s : State) {c : Bool} {P : Prop} [Decidable P] (hc : c = true ↔ P) :
    (s.skipIf c).pc = (if P then s.pc + 4 else s.pc + 2) ∧ ChangesOnly [.pc] s (s.skipIf c) :=
  ⟨(s.skipIf_pc c).trans (if_congr hc rfl rfl), (keepsOutside_skipIf s c).changesOnly (by decide)⟩

/-! ### The call stack (R100, R102, R109) -/

/-- An entry of the stack after a write to entry `n`. -/
theorem stack_get_set (stack : Vector Word 16) {n : Nat} (hn : n < 16) (v : Word) (k : Fin 16) :
    (stack.set n v hn).get k = if k.val = n then v else stack.get k := by
  simp only [Vector.get_eq_getElem, Vector.getElem_set, eq_comm]

theorem keepsOutside_withStack (s : State) (stack : Vector Word 16) :
    KeepsOutside [.stack] s { s with stack := stack } := by
  intro p hp
  cases p <;> simp [Part.Kept] at hp ⊢

/-- A return right after a call undoes the call but for the entry it pushed, which is the one popped. -/
theorem execRet_of_execCall {s t : State} {nnn : Addr12} (h : s.sp.val < 16) (ht : execCall nnn s = .next t) :
    execRet t = .next { s with stack := s.stack.set s.sp.val s.pc h } := by
  rw [execCall_of_room nnn h] at ht
  cases ht
  rw [execRet_of_nonempty (j := ⟨s.sp.val, h⟩) rfl]
  simp only [stack_get_set, if_pos]

end Sys2Proof.Machine

namespace Sys2Proof

open Machine

/-- Settles O24: the entry that the call pushed is the one that the return pops. -/
theorem callThenReturnGoesBackToTheCall : Obligations.CallThenReturnGoesBackToTheCall := by
  intro s t nnn h ht
  refine ⟨_, execRet_of_execCall h ht, rfl, rfl, (keepsOutside_withStack s _).changesOnly (by decide),
    fun j hj => ?_⟩
  rw [stack_get_set, if_neg hj]

/-- Settles O18. -/
theorem retPopsTheTopEntryIntoPc : Obligations.RetPopsTheTopEntryIntoPc :=
  fun _ => ⟨execRet_of_empty, fun _ hj =>
    have hret := execRet_of_nonempty hj
    ⟨_, hret, rfl, rfl, ((execRet_keepsOutside hret).of_run_eq (by decide) rfl).changesOnly (by decide)⟩⟩

/-- Settles O19. -/
theorem jpSetsPc : Obligations.JpSetsPc :=
  fun s nnn => ⟨_, rfl, zext16_toNat nnn, s.jump_changesOnly _⟩

/-- Settles O20: with room, the entry written is the one at sp, and it holds pc as it stands. -/
theorem callPushesItsOwnAddress : Obligations.CallPushesItsOwnAddress := by
  refine fun s nnn => ⟨execCall_of_full nnn, fun j hj => ?_⟩
  have hcall := execCall_of_room nnn (hj ▸ j.isLt)
  refine ⟨_, hcall, zext16_toNat nnn, congrArg (· + 1) hj, ?_, fun k hk => ?_,
    ((execCall_keepsOutside hcall).of_run_eq (by decide) rfl).changesOnly (by decide)⟩
  · rw [stack_get_set, if_pos hj.symm]
  · rw [stack_get_set, if_neg (hj ▸ Fin.val_ne_of_ne hk)]

/-- Settles O21. -/
theorem immediateSkipsCompareVxWithKk : Obligations.ImmediateSkipsCompareVxWithKk :=
  fun s _ _ => ⟨⟨_, rfl, s.skipIf_on beq_iff_eq⟩, ⟨_, rfl, s.skipIf_on bne_iff_ne⟩⟩

/-- Settles O22. -/
theorem registerSkipsCompareVxWithVy : Obligations.RegisterSkipsCompareVxWithVy :=
  fun s _ _ => ⟨⟨_, rfl, s.skipIf_on beq_iff_eq⟩, ⟨_, rfl, s.skipIf_on bne_iff_ne⟩⟩

/-- Settles O23: the target is V0 plus nnn at 16 bits. -/
theorem jpV0AddsRegisterZero : Obligations.JpV0AddsRegisterZero :=
  fun s nnn => ⟨_, rfl, indexedTarget_toNat (s.reg 0) nnn, s.jump_changesOnly _⟩

end Sys2Proof
end

section
/-! ## The ALU family: results and flags of the register instructions (42_alu.md R120 to R132) -/

namespace Sys2Proof.Machine

/-! ### Flags and results as arithmetic (R127 to R131) -/

theorem flagByte_decide_toNat (P : Prop) [Decidable P] : (flagByte (decide P)).toNat = if P then 1 else 0 := by
  by_cases h : P <;> simp [flagByte, h]

theorem carryFlag_toNat (a b : Byte) : (carryFlag a b).toNat = if a.toNat + b.toNat > 255 then 1 else 0 :=
  flagByte_decide_toNat _

theorem noBorrowFlag_toNat (a b : Byte) : (noBorrowFlag a b).toNat = if a.toNat ≥ b.toNat then 1 else 0 :=
  flagByte_decide_toNat _

theorem shiftedOutRight_toNat (a : Byte) : (shiftedOutRight a).toNat = a.toNat % 2 :=
  (BitVec.toNat_and a 1).trans (Nat.and_one_is_mod a.toNat)

/-- A byte has no bit above the one shifted out. -/
theorem shiftedOutLeft_toNat (a : Byte) : (shiftedOutLeft a).toNat = a.toNat / 128 := by
  have htop : a.toNat / 128 < 2 := by
    have := a.isLt
    omega
  calc (shiftedOutLeft a).toNat = (a >>> 7).toNat % 2 := shiftedOutRight_toNat (a >>> 7)
    _ = a.toNat / 128 % 2 := by rw [BitVec.toNat_ushiftRight, Nat.shiftRight_eq_div_pow]
    _ = a.toNat / 128 := Nat.mod_eq_of_lt htop

/-- The difference of two bytes is that of the integers modulo 256. -/
theorem byte_sub_toNat_cast (a b : Byte) : ((a - b).toNat : Int) = ((a.toNat : Int) - b.toNat) % 256 := by
  have := a.isLt
  have := b.isLt
  rw [BitVec.toNat_sub]
  omega

/-! ### What an ALU instruction leaves in V[x] and VF (R120) -/

theorem State.reg_result (s : State) (x : Reg) (v : Byte) : (s.setReg x v).advance.reg x = v := by
  rw [State.advance_reg, State.reg_setReg, if_pos rfl]

/-- The result is written last, so that it is what stays in V[x], with x = 0xF too. -/
theorem State.reg_flagged_result (s : State) (x : Reg) (flag v : Byte) :
    (s.setFlagged x flag v).advance.reg x = v := by
  rw [State.advance_reg, State.reg_setFlagged, if_pos rfl]

theorem State.reg_flagged_VF {x : Reg} (hx : x ≠ VF) (s : State) (flag v : Byte) :
    (s.setFlagged x flag v).advance.reg VF = flag := by
  rw [State.advance_reg, State.reg_setFlagged, if_neg hx.symm, if_pos rfl]

/-- The frame of an instruction that answers a next state: its row of registers and its row of parts. -/
theorem exec_frame (i : Instr) {s t : State} (h : exec i s = .next t) :
    WritesOnlyRegs i.writesRegs s t ∧ ChangesOnly i.writesParts s t :=
  ⟨exec_writesOnlyRegs h, (exec_keepsOutside h).changesOnly (params_not_mem_writesParts i)⟩

/-- 8xy5 and 8xy7 differ only in which operand is `a` and which is `b`. -/
theorem State.flagged_difference (s : State) (x : Reg) {a b : Byte} {t : State}
    (ht : t = (s.setFlagged x (noBorrowFlag a b) (a - b)).advance) :
    ((t.reg x).toNat : Int) = ((a.toNat : Int) - b.toNat) % 256 ∧
      (x ≠ VF → (t.reg VF).toNat = if a.toNat ≥ b.toNat then 1 else 0) := by
  subst ht
  refine ⟨?_, fun hx => ?_⟩
  · rw [State.reg_flagged_result, byte_sub_toNat_cast]
  · rw [State.reg_flagged_VF hx, noBorrowFlag_toNat]

end Sys2Proof.Machine

namespace Sys2Proof

open Machine

/-- Settles O28: the operands are read before VF is written, and the integer difference decides both the result and
the flag. -/
theorem subtractionsSetTheNoBorrowFlag : Obligations.SubtractionsSetTheNoBorrowFlag := by
  intro s x y
  constructor
  · obtain ⟨hresult, hflag⟩ := s.flagged_difference x (a := s.reg x) (b := s.reg y) rfl
    exact ⟨_, rfl, hresult, hflag, rfl, exec_frame (.subVV x y) rfl⟩
  · obtain ⟨hresult, hflag⟩ := s.flagged_difference x (a := s.reg y) (b := s.reg x) rfl
    exact ⟨_, rfl, hresult, hflag, rfl, exec_frame (.subnVV x y) rfl⟩

/-- Settles O25. -/
theorem immediateLoadAndAdd : Obligations.ImmediateLoadAndAdd := by
  intro s x kk
  refine ⟨⟨_, rfl, s.reg_result x kk, rfl, exec_frame (.ldVkk x kk) rfl⟩,
    ⟨_, rfl, ?_, rfl, exec_frame (.addVkk x kk) rfl⟩⟩
  rw [State.reg_result, BitVec.toNat_add]

/-- Settles O26: the operations on bytes are bitwise. -/
theorem assignAndBitwiseOperations : Obligations.AssignAndBitwiseOperations := by
  intro s x y
  refine ⟨⟨_, rfl, s.reg_result x _, rfl, exec_frame (.ldVV x y) rfl⟩,
    ⟨_, rfl, fun b => ?_, rfl, exec_frame (.orVV x y) rfl⟩,
    ⟨_, rfl, fun b => ?_, rfl, exec_frame (.andVV x y) rfl⟩,
    ⟨_, rfl, fun b => ?_, rfl, exec_frame (.xorVV x y) rfl⟩⟩
  · rw [State.reg_result, BitVec.getLsbD_or]
  · rw [State.reg_result, BitVec.getLsbD_and]
  · rw [State.reg_result, BitVec.getLsbD_xor]

/-- Settles O27. -/
theorem addSetsTheCarryFlag : Obligations.AddSetsTheCarryFlag := by
  refine fun s x y => ⟨_, rfl, ?_, fun hx => ?_, rfl, exec_frame (.addVV x y) rfl⟩
  · rw [State.reg_flagged_result, BitVec.toNat_add]
  · rw [State.reg_flagged_VF hx, carryFlag_toNat]

/-- Settles O29. -/
theorem shiftsPutTheLostBitInVF : Obligations.ShiftsPutTheLostBitInVF := by
  intro s x
  refine ⟨⟨_, rfl, ?_, fun hx => ?_, rfl, exec_frame (.shrV x) rfl⟩,
    ⟨_, rfl, ?_, fun hx => ?_, rfl, exec_frame (.shlV x) rfl⟩⟩
  · rw [State.reg_flagged_result, BitVec.toNat_ushiftRight, Nat.shiftRight_eq_div_pow]
  · rw [State.reg_flagged_VF hx, shiftedOutRight_toNat]
  · rw [State.reg_flagged_result, BitVec.toNat_shiftLeft, Nat.shiftLeft_eq]
  · rw [State.reg_flagged_VF hx, shiftedOutLeft_toNat]

/-- Settles O30: a bit that kk lacks is lost in the AND, whatever the drawn byte. -/
theorem randomByteIsMasked : Obligations.RandomByteIsMasked := by
  refine fun s x kk => ⟨_, rfl, s.draw.2.reg_result x _, fun b hb => ?_, rfl, rfl, exec_frame (.rnd x kk) rfl⟩
  rw [State.reg_result, BitVec.getLsbD_and, hb, Bool.and_false]

end Sys2Proof
end

section
/-! ## The index family: setting I and the memory transfers (43_index_and_memory.md R150 to R156) -/

namespace Sys2Proof.Machine

/-! ### A range outside its window (R57) -/

theorem checkWrite_ne_none {lo k : Nat} {i : Word} (h : i.toNat < lo ∨ i.toNat + k > 0xFFF) :
    checkWrite lo i (k + 1) ≠ none := by
  rw [ne_eq, checkWrite_eq_none]
  omega

theorem checkRead_ne_none {k : Nat} {i : Word} (h : i.toNat + k > 0xFFF) : checkRead i (k + 1) ≠ none := by
  rw [ne_eq, checkRead_eq_none]
  omega

/-- An access whose check fails raises the check's reason, whatever it would have done. -/
theorem guarded_raises {check : Option HaltReason} (h : check ≠ none) (done s : State) :
    ∃ r, check = some r ∧ guarded check done s = .next { s with run := .halted r } := by
  obtain ⟨r, rfl⟩ := Option.ne_none_iff_exists'.1 h
  exact ⟨r, rfl, rfl⟩

/-! ### Accesses inside their window -/

/-- Inside its window Fx33 stores the digits and goes on. -/
theorem execLdBV_of_window {s : State} (x : Reg) (hlo : s.params.storeLo ≤ s.I.toNat)
    (hhi : s.I.toNat + 2 ≤ 0xFFF) : execLdBV x s = .next (s.store (bcdDigits (s.reg x))).advance := by
  have hc : checkWrite s.params.storeLo s.I 3 = none := checkWrite_eq_none.2 ⟨hlo, hhi⟩
  rw [execLdBV, hc, guarded_none]

/-- Inside its window Fx65 loads the block and goes on. -/
theorem execLdVMi_of_window {s : State} {x : Reg} (h : s.I.toNat + x.val ≤ 0xFFF) :
    execLdVMi x s = .next (s.loadRegs x).advance := by
  have hc : checkRead s.I (x.val + 1) = none := checkRead_eq_none.2 h
  rw [execLdVMi, hc, guarded_none]

/-! ### What a store leaves and where (R153, R154) -/

/-- A store of `k + 1` bytes, then the advance: every byte but those at I to I + k is as before. -/
theorem State.read_stored_outside {s : State} {vs : List Byte} {k a : Nat} (hk : vs.length = k + 1)
    (h : a < s.dataAddr 0 ∨ s.dataAddr k < a) : (s.store vs).advance.read a = s.read a := by
  rw [State.advance_read, State.read_store_outside]
  rw [State.dataAddr_eq, State.dataAddr_eq] at h
  omega

theorem State.stored_changesOnly (s : State) (vs : List Byte) : ChangesOnly [.mem, .pc] s (s.store vs).advance :=
  (keepsOutside_store s vs).advance.changesOnly (by decide)

/-- A decimal digit fits a byte. -/
theorem digit_toNat {d : Nat} (h : d < 10) : (BitVec.ofNat 8 d).toNat = d := by
  rw [BitVec.toNat_ofNat]
  omega

/-- The hundreds, tens and units, as Fx33 leaves them at I, I + 1 and I + 2. -/
theorem State.read_store_bcdDigits (s : State) (v : Byte) :
    ((s.store (bcdDigits v)).read (s.dataAddr 0)).toNat = v.toNat / 100 ∧
    ((s.store (bcdDigits v)).read (s.dataAddr 1)).toNat = v.toNat / 10 % 10 ∧
    ((s.store (bcdDigits v)).read (s.dataAddr 2)).toNat = v.toNat % 10 := by
  have hundreds : v.toNat / 100 < 10 := by
    have := v.isLt
    omega
  have hlen : (bcdDigits v).length = 3 := length_bcdDigits v
  rw [s.read_store_inside 0 (by omega), s.read_store_inside 1 (by omega), s.read_store_inside 2 (by omega)]
  exact ⟨digit_toNat hundreds, digit_toNat (Nat.mod_lt _ (by decide)), digit_toNat (Nat.mod_lt _ (by decide))⟩

/-! ### Setting I (R150 to R152) -/

theorem State.setI_advance_changesOnly (s : State) (v : Word) : ChangesOnly [.I, .pc] s (s.setI v).advance :=
  (keepsOutside_setI s v).advance.changesOnly (by decide)

/-- Fx1E's sum: modulo 2^16, no flag. -/
theorem indexSum_toNat (i : Word) (v : Byte) : (i + v.setWidth 16).toNat = (i.toNat + v.toNat) % 2 ^ 16 := by
  rw [BitVec.toNat_add, BitVec.toNat_setWidth_of_le (by decide)]

end Sys2Proof.Machine

namespace Sys2Proof

open Machine

/-- Settles O32: inside the window the three stored bytes are the digits; outside it the check's reason is raised. -/
theorem bcdStoresThreeDigits : Obligations.BcdStoresThreeDigits := by
  intro s x
  constructor
  · intro hlo hhi
    obtain ⟨hundreds, tens, units⟩ := s.read_store_bcdDigits (s.reg x)
    exact ⟨_, execLdBV_of_window x hlo hhi, hundreds, tens, units,
      fun _ => State.read_stored_outside (length_bcdDigits _), rfl, s.stored_changesOnly _⟩
  · exact fun h => guarded_raises (checkWrite_ne_none h) _ s

/-- Settles O33: inside the window byte j of the block is V[j]; outside it the check's reason is raised. -/
theorem registerBlockStore : Obligations.RegisterBlockStore := by
  intro s x
  constructor
  · intro hlo hhi
    exact ⟨_, execLdMiV_of_window hlo hhi, fun _ => s.read_store_regBlock,
      fun _ => State.read_stored_outside (s.length_regBlock x), rfl, s.stored_changesOnly _⟩
  · exact fun h => guarded_raises (checkWrite_ne_none h) _ s

/-- Settles O34: inside the window each register is loaded or kept by its number; outside it the check's reason is
raised. -/
theorem registerBlockLoad : Obligations.RegisterBlockLoad := by
  intro s x
  constructor
  · intro h
    refine ⟨_, execLdVMi_of_window h, fun j hj => ?_, fun j hj => ?_, rfl,
      (keepsOutside_loadRegs s x).advance.changesOnly (by decide)⟩
    · rw [State.advance_reg, State.reg_loadRegs, if_pos (Fin.le_def.1 hj)]
    · rw [State.advance_reg, State.reg_loadRegs, if_neg (Nat.not_le.2 hj)]
  · exact fun h => guarded_raises (checkRead_ne_none h) _ s

/-- Settles O31. -/
theorem indexRegisterWrites : Obligations.IndexRegisterWrites :=
  fun s => ⟨fun nnn => ⟨_, rfl, zext16_toNat nnn, rfl, s.setI_advance_changesOnly _⟩,
    fun x => ⟨_, rfl, indexSum_toNat s.I (s.reg x), rfl, s.setI_advance_changesOnly _⟩,
    fun x => ⟨_, rfl, glyphAddr_toNat (s.reg x), rfl, s.setI_advance_changesOnly _⟩⟩

end Sys2Proof
end

section
/-! ## The display family: clear screen and the sprite draw (44_display.md R170 to R175) -/

namespace Sys2Proof.Machine

/-! ### Dxyn inside and outside its window (R171, R57) -/

/-- The state a completed Dxyn leaves. -/
def State.drawn (s : State) (x y : Reg) (n : Nat) : State :=
  ((s.setFb (s.raster x y n).fb).setReg VF (collisionFlag (s.raster x y n).collision)).advance

/-- With no row to read, or inside its window, Dxyn draws and goes on. -/
theorem execDrw_of_window {s : State} (x y : Reg) {n : Nat} (h : n = 0 ∨ s.I.toNat + n - 1 ≤ 0xFFF) :
    execDrw x y n s = .next (s.drawn x y n) := by
  have hc : (if n > 0 then checkRead s.I n else none) = none := by
    split_ifs with hn
    · exact checkRead_eq_none.2 (h.resolve_left hn.ne')
    · rfl
  rw [execDrw, hc, guarded_none, State.drawn]

/-- With a row to read past the end of memory, Dxyn raises before it draws. -/
theorem execDrw_of_outside {s : State} (x y : Reg) {n : Nat} (hn : 0 < n) (h : s.I.toNat + n - 1 > 0xFFF) :
    execDrw x y n s = .next (s.halt (.invalidAddress (s.I.toNat + n - 1))) := by
  rw [execDrw, if_pos hn, checkRead_eq_some.2 ⟨h, rfl⟩, guarded_some]

/-- A row count that an instruction word can hold is at most the height of the screen. -/
theorem rows_le_of_drw_wf {x y : Reg} {n : Nat} (h : (Instr.drw x y n).wf = true) : n ≤ 32 :=
  (of_decide_eq_true h : n ≤ 15).trans (by decide)

/-! ### The screen and VF after a draw (R171 to R173) -/

section
variable (s : State) (x y : Reg) {n : Nat} (hn : n ≤ 32)
include hn

theorem State.pixel_drawn_of_covered {r : Fin 32} {c : Fin 64} (h : s.SpriteCovers x y n r c) :
    (s.drawn x y n).fb.pixel r c = !s.fb.pixel r c :=
  (s.pixel_raster x y hn r c).trans (if_pos (State.mem_drawPoints.2 h))

theorem State.pixel_drawn_of_not_covered {r : Fin 32} {c : Fin 64} (h : ¬ s.SpriteCovers x y n r c) :
    (s.drawn x y n).fb.pixel r c = s.fb.pixel r c :=
  (s.pixel_raster x y hn r c).trans (if_neg (mt State.mem_drawPoints.1 h))

/-- The draw collides exactly when it covers a lit pixel. -/
theorem State.collision_raster_iff :
    (s.raster x y n).collision = true ↔ ∃ r c, s.SpriteCovers x y n r c ∧ s.fb.pixel r c = true := by
  simp only [s.collision_raster x y hn, List.any_eq_true, Prod.exists, State.mem_drawPoints]

theorem State.reg_VF_drawn_of_collision (h : ∃ r c, s.SpriteCovers x y n r c ∧ s.fb.pixel r c = true) :
    (s.drawn x y n).reg VF = 1 := by
  rw [State.drawn, State.reg_result, (s.collision_raster_iff x y hn).2 h]
  rfl

theorem State.reg_VF_drawn_of_no_collision (h : ¬ ∃ r c, s.SpriteCovers x y n r c ∧ s.fb.pixel r c = true) :
    (s.drawn x y n).reg VF = 0 := by
  rw [State.drawn, State.reg_result, Bool.eq_false_iff.2 (mt (s.collision_raster_iff x y hn).1 h)]
  rfl

end

/-! ### The frame of a draw -/

theorem State.writesOnlyRegs_drawn (s : State) (x y : Reg) (n : Nat) : WritesOnlyRegs [VF] s (s.drawn x y n) :=
  (writesOnlyRegs_setReg (s.setFb (s.raster x y n).fb) VF _).advance

theorem State.keepsOutside_drawn (s : State) (x y : Reg) (n : Nat) :
    KeepsOutside [.V, .fb, .pc] s (s.drawn x y n) :=
  ((keepsOutside_setFb s _).trans (keepsOutside_setReg _ VF _)).advance.mono (by decide)

/-! ### A second draw at the same place (R175) -/

/-- A draw changes neither I nor memory, so from the same start the same pixels are covered again. -/
theorem State.spriteCovers_drawn {s : State} {x y : Reg} {n : Nat}
    (hx : ((s.drawn x y n).reg x).toNat % 64 = (s.reg x).toNat % 64)
    (hy : ((s.drawn x y n).reg y).toNat % 32 = (s.reg y).toNat % 32) (r : Fin 32) (c : Fin 64) :
    (s.drawn x y n).SpriteCovers x y n r c ↔ s.SpriteCovers x y n r c := by
  have hI : (s.drawn x y n).I = s.I := rfl
  have hread : ∀ a, (s.drawn x y n).read a = s.read a := fun _ => rfl
  simp only [State.SpriteCovers, hx, hy, hI, hread]

/-- The lit pixels under the second draw are the unlit ones under the first. -/
theorem State.lit_under_drawn_iff {s : State} {x y : Reg} {n : Nat} (hn : n ≤ 32)
    (hcov : ∀ r c, (s.drawn x y n).SpriteCovers x y n r c ↔ s.SpriteCovers x y n r c) :
    (∃ r c, (s.drawn x y n).SpriteCovers x y n r c ∧ (s.drawn x y n).fb.pixel r c = true) ↔
      ∃ r c, s.SpriteCovers x y n r c ∧ s.fb.pixel r c = false := by
  refine exists₂_congr fun r c => ?_
  rw [hcov]
  refine and_congr_right fun h => ?_
  rw [s.pixel_drawn_of_covered x y hn h, Bool.not_eq_true']

/-- A covered pixel is flipped twice, another one never. -/
theorem State.pixel_drawn_drawn {s : State} {x y : Reg} {n : Nat} (hn : n ≤ 32)
    (hcov : ∀ r c, (s.drawn x y n).SpriteCovers x y n r c ↔ s.SpriteCovers x y n r c) (r : Fin 32) (c : Fin 64) :
    ((s.drawn x y n).drawn x y n).fb.pixel r c = s.fb.pixel r c := by
  by_cases h : s.SpriteCovers x y n r c
  · rw [State.pixel_drawn_of_covered _ x y hn ((hcov r c).2 h), s.pixel_drawn_of_covered x y hn h, Bool.not_not]
  · rw [State.pixel_drawn_of_not_covered _ x y hn (mt (hcov r c).1 h), s.pixel_drawn_of_not_covered x y hn h]

end Sys2Proof.Machine

namespace Sys2Proof

open Machine

/-- Settles O39: the points the rasterizer flips are the covered pixels, each of them flipped once. -/
theorem drawFlipsExactlyTheCoveredPixels : Obligations.DrawFlipsExactlyTheCoveredPixels := by
  intro s x y n hwf
  have hn := rows_le_of_drw_wf hwf
  constructor
  · intro hwin
    exact ⟨_, execDrw_of_window x y hwin, fun _ _ => s.pixel_drawn_of_covered x y hn,
      fun _ _ => s.pixel_drawn_of_not_covered x y hn, s.reg_VF_drawn_of_collision x y hn,
      s.reg_VF_drawn_of_no_collision x y hn, rfl, s.writesOnlyRegs_drawn x y n,
      (s.keepsOutside_drawn x y n).changesOnly (by decide)⟩
  · exact execDrw_of_outside x y

/-- Settles O40: the second draw covers the pixels of the first, and a covered pixel is lit before it exactly when it
was unlit before the first. -/
theorem drawingTwiceRestoresTheScreen : Obligations.DrawingTwiceRestoresTheScreen := by
  intro s t x y n hwf hwin hexec hx hy
  have hn := rows_le_of_drw_wf hwf
  have ht : execDrw x y n s = .next t := hexec
  rw [execDrw_of_window x y hwin] at ht
  cases ht
  have hcov := State.spriteCovers_drawn hx hy
  have hlit := State.lit_under_drawn_iff hn hcov
  exact ⟨_, execDrw_of_window x y hwin, State.pixel_drawn_drawn hn hcov,
    fun h => State.reg_VF_drawn_of_collision _ x y hn (hlit.2 h),
    fun h => State.reg_VF_drawn_of_no_collision _ x y hn (mt hlit.1 h)⟩

/-- Settles O38. -/
theorem clsClearsEveryPixel : Obligations.ClsClearsEveryPixel :=
  fun s => ⟨_, rfl, Framebuffer.pixel_clear, rfl, (keepsOutside_setFb s _).advance.changesOnly (by decide)⟩

/-- Refutes O41: a sprite of one bit over the one lit pixel; the first draw turns it off, and the second, on a dark
screen, turns nothing off. -/
theorem not_secondDrawOfANonzeroSpriteAlwaysCollides : ¬ Obligations.SecondDrawOfANonzeroSpriteAlwaysCollides := by
  intro h
  obtain ⟨u, hu, -, hVF⟩ :=
    h (((State.reset.setI 0x300).writeBytes 0x300 [0x80]).setFb (Framebuffer.clear.flip 0 0)) _ 1 2 1 (by decide)
      (by decide) (by decide) (by decide) ⟨0, by decide, by decide⟩ rfl
  cases hu
  exact absurd hVF (by decide)

end Sys2Proof
end

section
/-! ## The key and timer family: key skips, the wait for a key and the timers (45_keys_and_timers.md R190 to R196) -/

namespace Sys2Proof.Machine

/-! ### The key a skip reads (R190 to R192) -/

/-- An index in range, or any index under `mask`, names the key of its low nibble. -/
theorem keyIndex_eq_ok {p : Config.KeyIndexPolicy} {v : Byte} {k : Fin 16} (h : v.toNat ≤ 15 ∨ p = .mask)
    (hk : v.toNat % 16 = k.val) : keyIndex p v = .ok k := by
  obtain hle | rfl := h
  · exact keyIndex_of_le (by omega)
  · exact keyIndex_mask hk

theorem State.skipOnKey_skips {s : State} {x : Reg} {k : Fin 16}
    (h : (s.reg x).toNat ≤ 15 ∨ s.params.keyIndexPolicy = .mask) (hk : (s.reg x).toNat % 16 = k.val) (wanted : Bool) :
    ∃ t, s.skipOnKey x wanted = .next t ∧ t.pc = (if s.keys.get k = wanted then s.pc + 4 else s.pc + 2) ∧
      ChangesOnly [.pc] s t :=
  ⟨_, State.skipOnKey_of_ok (keyIndex_eq_ok h hk), s.skipIf_on beq_iff_eq⟩

theorem State.skipOnKey_raises {s : State} {x : Reg} (h : 15 < (s.reg x).toNat)
    (hp : s.params.keyIndexPolicy = .fault) (wanted : Bool) :
    s.skipOnKey x wanted = .next { s with run := .halted (.keyIndexOutOfRange (s.reg x)) } :=
  State.skipOnKey_of_error (hp ▸ keyIndex_fault h)

/-! ### The key that resumes a suspended Fx0A (R194, R242) -/

/-- A key after a write to key `k`. -/
theorem State.keys_get_writeKey (s : State) (k j : Fin 16) (pressed : Bool) :
    (s.writeKey k pressed).keys.get j = if j = k then pressed else s.keys.get j := by
  simp only [State.writeKey_keys, Vector.get_eq_getElem, Vector.getElem_set, Fin.ext_iff, eq_comm]

theorem hostSetKey_of_index (k : Fin 16) (pressed : Bool) (s : State) :
    hostSetKey k.val pressed s = .ok (s.setKey k pressed) :=
  dif_pos k.isLt

theorem State.setKey_resumes {s : State} {x : Reg} {k : Fin 16} (hrun : s.run = .awaitingKey x)
    (hup : s.keys.get k = false) : s.setKey k true = (s.writeKey k true).resume x k := by
  rw [State.setKey_of_awaiting hrun, hup]
  rfl

theorem State.reg_resume_toNat (s : State) (x : Reg) (k : Fin 16) : ((s.resume x k).reg x).toNat = k.val := by
  rw [State.reg_resume, if_pos rfl, BitVec.toNat_ofNat]
  omega

theorem State.writesOnlyRegs_resume (s : State) (x : Reg) (k : Fin 16) : WritesOnlyRegs [x] s (s.resume x k) :=
  writesOnlyRegs_setReg s x _

/-! ### Host operations that resume nothing (R241, R242) -/

/-- A tick reaches the timers only; a release reaches the keys only, or is rejected. -/
theorem State.applyOp_keepsOutside_of_tick_or_release {op : HostOp} (h : op = .tick ∨ ∃ k, op = .setKey k false)
    (s : State) : KeepsOutside [.DT, .ST, .keys] s (s.applyOp op) := by
  obtain rfl | ⟨k, rfl⟩ := h
  · exact (keepsOutside_tick s).mono (by decide)
  · obtain ⟨⟨⟩, -⟩ | ⟨j, x, ⟨⟩, -⟩ | ⟨j, b, -, -, e⟩ | ⟨-, e⟩ | ⟨⟨⟩, -⟩ | ⟨⟨⟩, -⟩ :=
      s.applyOp_cases (.setKey k false) <;> rw [e]
    · exact (keepsOutside_writeKey s j b).mono (by decide)
    · exact keepsOutside_refl _ s

theorem keepsOutside_withHost (s : State) (host : List (List HostOp)) :
    KeepsOutside [.host] s { s with host := host } := by
  intro p hp
  cases p <;> simp [Part.Kept] at hp ⊢

/-- A boundary with ticks and releases only, composed along its schedule. -/
theorem State.boundary_keepsOutside_of_ticks_and_releases {s : State}
    (h : ∀ ops ∈ s.host.head?, ∀ op ∈ ops, op = .tick ∨ ∃ k, op = .setKey k false) :
    KeepsOutside [.DT, .ST, .keys, .host] s s.boundary := by
  obtain ⟨-, hb⟩ | ⟨ops, rest, hh, hb⟩ := s.boundary_cases <;> rw [hb]
  · exact keepsOutside_refl _ s
  · have hops := h ops (by rw [hh]; rfl)
    have hkept : KeepsOutside [.DT, .ST, .keys] { s with host := rest } (State.applyOps { s with host := rest } ops) :=
      State.applyOps_induct (keepsOutside_refl _) (fun hst htu => (hst.trans htu).mono (by decide))
        (fun op hop u => u.applyOp_keepsOutside_of_tick_or_release (hops op hop)) _
    exact ((keepsOutside_withHost s rest).trans hkept).mono (by decide)

end Sys2Proof.Machine

namespace Sys2Proof

open Machine

/-- Settles O47: the boundary leaves `run` as it is, and a waiting core executes nothing. -/
theorem suspendedCoreWaitsForAKeyDown : Obligations.SuspendedCoreWaitsForAKeyDown := by
  intro s x hrun hops
  have hkept := State.boundary_keepsOutside_of_ticks_and_releases hops
  have hwaits : s.boundary.run = .awaitingKey x := Eq.trans (hkept .run (by decide)) hrun
  exact ⟨s.boundary, State.instructionStep_of_not_running (by simp [hwaits]), hwaits,
    hkept.changesOnly (by decide)⟩

/-- Settles O43. -/
theorem keySkipsReadKeyVx : Obligations.KeySkipsReadKeyVx :=
  fun _ _ => ⟨fun _ h hk => ⟨State.skipOnKey_skips h hk true, State.skipOnKey_skips h hk false⟩,
    fun h hp => ⟨State.skipOnKey_raises h hp true, State.skipOnKey_raises h hp false⟩⟩

/-- Settles O44. -/
theorem keyIndexUnderBothPolicies : Obligations.KeyIndexUnderBothPolicies := by
  refine fun p v => ⟨fun k => keyIndex_of_le, fun h hp => hp ▸ keyIndex_fault h,
    fun k _ hp hk => keyIndex_eq_ok (.inr hp) hk, ?_⟩
  rintro s x wanted rfl rfl
  exact ⟨fun h hp => State.skipOnKey_raises h hp wanted, fun _ h hk => State.skipOnKey_skips h hk wanted⟩

/-- Settles O45. -/
theorem timerReadsAndWrites : Obligations.TimerReadsAndWrites :=
  fun s x => ⟨⟨_, rfl, s.reg_result x s.DT, rfl, exec_frame (.ldVDt x) rfl⟩,
    ⟨_, rfl, rfl, rfl, (exec_frame (.ldDtV x) rfl).2⟩, ⟨_, rfl, rfl, rfl, (exec_frame (.ldStV x) rfl).2⟩⟩

/-- Settles O46: the press writes the key before it resumes the core, and the resume leaves the keys. -/
theorem waitForKeySuspendsAndResumes : Obligations.WaitForKeySuspendsAndResumes := by
  refine fun s x => ⟨rfl, fun k hrun hup => ⟨(s.writeKey k true).resume x k, ?_, State.reg_resume_toNat _ x k, rfl,
    rfl, ?_, fun j hj => ?_, State.writesOnlyRegs_resume (s.writeKey k true) x k, ?_⟩⟩
  · rw [hostSetKey_of_index, State.setKey_resumes hrun hup]
  · rw [State.resume_keys, State.keys_get_writeKey, if_pos rfl]
  · rw [State.resume_keys, State.keys_get_writeKey, if_neg hj]
  · exact (((keepsOutside_writeKey s k true).trans (keepsOutside_resume _ x k)).mono (by decide)).changesOnly
      (by decide)

end Sys2Proof
end

section
/-! ## The exceptions family: what an instruction raises, the halted core, the run of steps (60_exceptions.md R220 to
R226, R244) -/

namespace Sys2Proof.Machine

/-! ### Every instruction and every step answers (R222, R244) -/

theorem guarded_answers (check : Option HaltReason) (done s : State) : ∃ t, guarded check done s = .next t := by
  cases check with
  | none => exact ⟨done, rfl⟩
  | some reason => exact ⟨s.halt reason, rfl⟩

theorem State.skipOnKey_answers (s : State) (x : Reg) (wanted : Bool) : ∃ t, s.skipOnKey x wanted = .next t := by
  cases h : keyIndex s.params.keyIndexPolicy (s.reg x) with
  | error reason => exact ⟨_, State.skipOnKey_of_error h⟩
  | ok k => exact ⟨_, State.skipOnKey_of_ok h⟩

theorem execRet_answers (s : State) : ∃ t, execRet s = .next t := by
  by_cases hs : s.sp.val = 0
  · exact ⟨_, execRet_of_empty hs⟩
  · exact ⟨_, execRet_of_nonempty (j := ⟨s.sp.val - 1, by omega⟩) (by simp only; omega)⟩

theorem execCall_answers (nnn : Addr12) (s : State) : ∃ t, execCall nnn s = .next t := by
  by_cases hs : s.sp.val < 16
  · exact ⟨_, execCall_of_room nnn hs⟩
  · exact ⟨_, execCall_of_full nnn (by omega)⟩

theorem exec_answers (i : Instr) (s : State) : ∃ t, exec i s = .next t := by
  cases i with
  | ret => exact execRet_answers s
  | call nnn => exact execCall_answers nnn s
  | skp x => exact s.skipOnKey_answers x true
  | sknp x => exact s.skipOnKey_answers x false
  | drw | ldBV | ldMiV | ldVMi => exact guarded_answers _ _ _
  | _ => exact ⟨_, rfl⟩

theorem State.instructionStep_answers (s : State) : ∃ t, s.instructionStep = .next t := by
  by_cases hrun : s.run = .running
  · cases h : s.fetchDecode with
    | ok i => exact State.instructionStep_of_fetchDecode hrun h ▸ exec_answers i s
    | error reason => exact ⟨_, State.instructionStep_of_error hrun h⟩
  · exact ⟨s, State.instructionStep_of_not_running hrun⟩

/-! ### `step_n(k)` (R244) -/

theorem State.stepN_succ {s t : State} (h : s.instructionStep = .next t) (k : Nat) : s.stepN (k + 1) = t.stepN k := by
  simp only [State.stepN, h]

theorem State.stepN_of_not_running {s : State} (h : s.run ≠ .running) (k : Nat) : s.stepN k = .next s := by
  induction k with
  | zero => rfl
  | succ k ih => rw [State.stepN_succ (State.instructionStep_of_not_running h), ih]

theorem State.stepN_one (s : State) : s.stepN 1 = s.instructionStep := by
  obtain ⟨t, ht⟩ := s.instructionStep_answers
  rw [State.stepN_succ ht, ht, State.stepN]

theorem State.stepN_add {j : Nat} {s t : State} (h : s.stepN j = .next t) (k : Nat) :
    s.stepN (j + k) = t.stepN k := by
  induction j generalizing s with
  | zero =>
    cases h
    rw [Nat.zero_add]
  | succ j ih =>
    obtain ⟨u, hu⟩ := s.instructionStep_answers
    rw [State.stepN_succ hu] at h
    rw [Nat.succ_add, State.stepN_succ hu, ih h]

/-! ### What an instruction raises (R221, R222) -/

/-- An instruction that halts the running core does nothing else: going on and suspending leave it not halted. -/
theorem exec_eq_halt {i : Instr} {s t : State} {r : HaltReason} (hrun : s.run = .running) (h : exec i s = .next t)
    (hr : t.run = .halted r) : t = s.halt r := by
  cases exec_goes h with
  | halted reason =>
    cases hr
    rfl
  | suspended x => cases hr
  | on run_eq => simp [run_eq, hrun] at hr

theorem State.instructionStep_eq_halt {s t : State} {r : HaltReason} (hrun : s.run = .running)
    (h : s.instructionStep = .next t) (hr : t.run = .halted r) : t = s.halt r := by
  obtain ⟨-, i, -, he⟩ | ⟨-, reason, -, rfl⟩ | ⟨hn, -⟩ := State.instructionStep_cases h
  · exact exec_eq_halt hrun he hr
  · cases hr
    rfl
  · exact absurd hrun hn

theorem checkRead_raises_invalidAddress {i : Word} {k : Nat} {r : HaltReason} (h : checkRead i k = some r) :
    ∃ a, r = .invalidAddress a :=
  ⟨_, (checkRead_eq_some.1 h).2⟩

theorem checkWrite_raises_invalidAddress {lo k : Nat} {i : Word} {r : HaltReason} (h : checkWrite lo i k = some r) :
    ∃ a, r = .invalidAddress a := by
  obtain ⟨-, h⟩ | ⟨-, -, h⟩ := checkWrite_eq_some.1 h <;> exact ⟨_, h⟩

/-- A guarded access halts the running core with its check's reason only. -/
theorem check_of_guarded_halted {check : Option HaltReason} {done s t : State} {r : HaltReason}
    (hdone : done.run = .running) (h : guarded check done s = .next t) (hr : t.run = .halted r) : check = some r := by
  obtain ⟨reason, hc, rfl⟩ | ⟨-, rfl⟩ := guarded_cases h
  · cases hr
    exact hc
  · simp [hdone] at hr

theorem State.reason_of_skipOnKey_halted {s t : State} {x : Reg} {wanted : Bool} {r : HaltReason}
    (hrun : s.run = .running) (h : s.skipOnKey x wanted = .next t) (hr : t.run = .halted r) :
    r = .keyIndexOutOfRange (s.reg x) := by
  obtain rfl | ⟨k, rfl⟩ := State.skipOnKey_cases h
  · cases hr
    rfl
  · simp [hrun] at hr

/-- Only the instructions with a row in R221's table, and Fx0A, write `run`; each of the former has one check. -/
theorem mayRaise_of_exec_halted {i : Instr} {s t : State} {r : HaltReason} (hrun : s.run = .running)
    (h : exec i s = .next t) (hr : t.run = .halted r) : i.mayRaise r := by
  by_cases hw : .run ∉ i.writesParts
  · have kept : t.run = s.run := exec_keepsOutside h .run hw
    simp [kept, hrun] at hr
  · cases i with
    | ret =>
      obtain ⟨-, rfl⟩ | ⟨j, -, rfl⟩ := execRet_cases h
      · cases hr
        trivial
      · simp [hrun] at hr
    | call nnn =>
      obtain ⟨-, rfl⟩ | ⟨hs, rfl⟩ := execCall_cases h
      · cases hr
        trivial
      · simp [hrun] at hr
    | drw x y n =>
      have hc := check_of_guarded_halted (by simp [hrun]) h hr
      split_ifs at hc with hn
      obtain ⟨a, rfl⟩ := checkRead_raises_invalidAddress hc
      exact hn
    | ldBV | ldMiV =>
      obtain ⟨a, rfl⟩ := checkWrite_raises_invalidAddress (check_of_guarded_halted (by simp [hrun]) h hr)
      trivial
    | ldVMi x =>
      obtain ⟨a, rfl⟩ := checkRead_raises_invalidAddress (check_of_guarded_halted (by simp [hrun]) h hr)
      trivial
    | skp | sknp =>
      obtain rfl := State.reason_of_skipOnKey_halted hrun h hr
      trivial
    | ldVKey x =>
      cases h
      cases hr
    | _ => simp [Instr.writesParts] at hw

/-! ### The host's operations on a halted core (R225, R241 to R243) -/

/-- Where the core has halted no Fx0A waits and no stop takes effect, so ticks and keys are left. -/
theorem State.applyOp_keepsOutside_of_halted {s : State} {r : HaltReason} (h : s.run = .halted r) (op : HostOp) :
    KeepsOutside [.DT, .ST, .keys] s (s.applyOp op) := by
  obtain ⟨-, e⟩ | ⟨k, x, -, hx, -⟩ | ⟨k, b, -, -, e⟩ | ⟨-, e⟩ | ⟨-, -, e⟩ | ⟨-, hn, -⟩ := s.applyOp_cases op
  · exact e ▸ (keepsOutside_tick s).mono (by decide)
  · simp [h] at hx
  · exact e ▸ (keepsOutside_writeKey s k b).mono (by decide)
  · exact e.symm ▸ keepsOutside_refl _ s
  · exact e.symm ▸ keepsOutside_refl _ s
  · exact absurd h (hn r)

theorem State.applyOps_keepsOutside_of_halted {s : State} {r : HaltReason} (h : s.run = .halted r)
    (ops : List HostOp) : KeepsOutside [.DT, .ST, .keys] s (s.applyOps ops) := by
  induction ops generalizing s with
  | nil => exact keepsOutside_refl _ s
  | cons op ops ih =>
    have hop := State.applyOp_keepsOutside_of_halted h op
    have hrun : (s.applyOp op).run = s.run := hop .run (by decide)
    exact (hop.trans (ih (hrun.trans h))).mono (by decide)

theorem State.applyOps_run_of_halted {s : State} {r : HaltReason} (h : s.run = .halted r) (ops : List HostOp) :
    (s.applyOps ops).run = .halted r :=
  Eq.trans (State.applyOps_keepsOutside_of_halted h ops .run (by decide)) h

/-- What the boundary's operations keep, the boundary keeps, but for the schedule. -/
theorem State.boundary_keepsOutside {ps : List Part} {s : State}
    (h : ∀ ops rest, KeepsOutside ps { s with host := rest } (State.applyOps { s with host := rest } ops)) :
    KeepsOutside (.host :: ps) s s.boundary := by
  obtain ⟨-, e⟩ | ⟨ops, rest, -, e⟩ := s.boundary_cases <;> rw [e]
  · exact keepsOutside_refl _ s
  · exact (keepsOutside_withHost s rest).trans (h ops rest)

theorem State.boundary_keepsOutside_of_halted {s : State} {r : HaltReason} (h : s.run = .halted r) :
    KeepsOutside [.host, .DT, .ST, .keys] s s.boundary :=
  State.boundary_keepsOutside fun ops rest =>
    State.applyOps_keepsOutside_of_halted (s := { s with host := rest }) h ops

/-! ### A stop at the boundary (R226, R243) -/

theorem State.requestStop_of_halted {s : State} {r : HaltReason} (h : s.run = .halted r) : s.requestStop = s := by
  rw [State.requestStop, h]

theorem State.requestStop_of_not_halted {s : State} (h : ∀ r, s.run ≠ .halted r) :
    s.requestStop = s.halt .stopped := by
  cases hr : s.run with
  | halted r => exact absurd hr (h r)
  | running | awaitingKey => rw [State.requestStop, hr]

/-- Only a stop halts the core from outside. -/
theorem State.applyOp_not_halted {s : State} {op : HostOp} (hop : op ≠ .requestStop) (h : ∀ r, s.run ≠ .halted r) :
    ∀ r, (s.applyOp op).run ≠ .halted r := by
  intro r
  obtain ⟨-, e⟩ | ⟨k, x, -, -, -, e⟩ | ⟨k, b, -, -, e⟩ | ⟨-, e⟩ | ⟨hs, -⟩ | ⟨hs, -⟩ := s.applyOp_cases op
  · exact e ▸ h r
  · simp [e]
  · exact e ▸ h r
  · exact e.symm ▸ h r
  · exact absurd hs hop
  · exact absurd hs hop

/-- A stop among the operations halts the core with Stopped: none before it halts, none after it changes the reason. -/
theorem State.applyOps_run_of_stop {s : State} {ops : List HostOp} (h : ∀ r, s.run ≠ .halted r)
    (hstop : HostOp.requestStop ∈ ops) : (s.applyOps ops).run = .halted .stopped := by
  induction ops generalizing s with
  | nil => simp at hstop
  | cons op ops ih =>
    by_cases hop : op = .requestStop
    · subst hop
      have stopped : (s.applyOp .requestStop).run = .halted .stopped :=
        congrArg State.run (State.requestStop_of_not_halted h)
      exact State.applyOps_run_of_halted stopped ops
    · exact ih (State.applyOp_not_halted hop h) ((List.mem_cons.1 hstop).resolve_left (Ne.symm hop))

theorem State.boundary_run_of_stop {s : State} {ops : List HostOp} {rest : List (List HostOp)}
    (hh : s.host = ops :: rest) (hstop : HostOp.requestStop ∈ ops) (h : ∀ r, s.run ≠ .halted r) :
    s.boundary.run = .halted .stopped := by
  rw [State.boundary_of_cons hh]
  exact State.applyOps_run_of_stop (s := { s with host := rest }) h hstop

/-- A step whose boundary halts the core executes nothing. -/
theorem step_of_boundary_halted {s : State} {r : HaltReason} (h : s.boundary.run = .halted r) :
    step s = .next s.boundary :=
  State.instructionStep_of_not_running (by simp [h])

/-! ### The checks of one step, in order (R226) -/

theorem State.instructionStep_of_illegal_fetch {s : State} (hr : s.run = .running)
    (h : ¬ (s.params.fetchLo ≤ s.pc.toNat ∧ s.pc.toNat + 1 ≤ s.params.fetchHi)) :
    s.instructionStep = .next (s.halt (.invalidAddress s.pc.toNat)) :=
  State.instructionStep_of_error hr (State.fetchDecode_of_fetch_error (State.fetch_of_illegal h))

theorem State.instructionStep_of_illegal_word {s : State} {e : DecodeError} (hr : s.run = .running)
    (hl : s.params.fetchLo ≤ s.pc.toNat ∧ s.pc.toNat + 1 ≤ s.params.fetchHi)
    (h : decode (s.wordAt s.pc.toNat) = .error e) :
    s.instructionStep = .next (s.halt (.invalidInstruction (s.wordAt s.pc.toNat))) :=
  State.instructionStep_of_error hr (State.fetchDecode_of_illegal (State.fetch_of_legal hl) h)

theorem State.instructionStep_of_decode {s : State} {i : Instr} (hr : s.run = .running)
    (hl : s.params.fetchLo ≤ s.pc.toNat ∧ s.pc.toNat + 1 ≤ s.params.fetchHi)
    (h : decode (s.wordAt s.pc.toNat) = .ok i) : s.instructionStep = exec i s :=
  State.instructionStep_of_fetchDecode hr (State.fetchDecode_of_decode hl h)

@[simp] theorem State.boundary_wordAt (s : State) (a : Nat) : s.boundary.wordAt a = s.wordAt a := by
  simp only [State.wordAt, State.boundary_read]

end Sys2Proof.Machine

namespace Sys2Proof

open Machine

/-- Settles O9: `step_n` splits after any number of steps, because each step answers a next state. -/
theorem stepNStopsWhenTheCoreStops : Obligations.StepNStopsWhenTheCoreStops :=
  ⟨fun _ h => ⟨State.instructionStep_of_not_running h, State.stepN_of_not_running h⟩, State.stepN_one,
    fun _ k _ _ h => State.stepN_add h k⟩

/-- Settles O11. -/
theorem failingStepChangesOnlyRun : Obligations.FailingStepChangesOnlyRun :=
  fun _ _ _ => State.instructionStep_eq_halt

/-- Settles O12. -/
theorem instructionsRaiseOnlyTheirFailure : Obligations.InstructionsRaiseOnlyTheirFailure :=
  fun _ _ _ _ => mayRaise_of_exec_halted

/-- Settles O13: the boundary keeps the halt, and a halted core executes nothing. -/
theorem haltedIsTerminal : Obligations.HaltedIsTerminal := by
  intro s r h
  have kept := State.boundary_keepsOutside_of_halted h
  have halted : s.boundary.run = .halted r := Eq.trans (kept .run (by decide)) h
  exact ⟨s.boundary, step_of_boundary_halted halted, halted, (kept.mono (by decide)).changesOnly (by decide)⟩

/-- Settles O10. -/
theorem stepAlwaysAnswersANextState : Obligations.StepAlwaysAnswersANextState :=
  fun s => s.boundary.instructionStep_answers

/-- Settles O53: a scheduled stop halts the core at the boundary, whose frame is that of its operations; else the
checks are the instruction step's from the boundary's state. -/
theorem checksAreMadeInOrder : Obligations.ChecksAreMadeInOrder := by
  refine fun s => ⟨fun ops rest hh hstop hn => ?_, fun hr => ⟨fun h => ?_, fun hlo hhi => ?_⟩⟩
  · have stopped := State.boundary_run_of_stop hh hstop hn
    refine ⟨s.boundary, step_of_boundary_halted stopped, stopped, ?_, fun hr => ?_⟩
    · exact ((State.boundary_keepsOutside fun ops _ => State.applyOps_keepsOutside _ ops).mono
        (by decide)).changesOnly (by decide)
    · exact ((State.boundary_keepsOutside fun ops _ =>
        State.applyOps_keepsOutside_of_not_awaiting (by simp [hr]) ops).mono (by decide)).changesOnly (by decide)
  · exact State.instructionStep_of_illegal_fetch hr (s.boundary_params.symm ▸ h)
  · have hl : s.boundary.params.fetchLo ≤ s.boundary.pc.toNat ∧
        s.boundary.pc.toNat + 1 ≤ s.boundary.params.fetchHi := s.boundary_params.symm ▸ ⟨hlo, hhi⟩
    rw [← s.boundary_wordAt]
    exact ⟨fun e => State.instructionStep_of_illegal_word hr hl, fun i => State.instructionStep_of_decode hr hl⟩

end Sys2Proof
end

section
/-! ## The exceptions family: the host's own operations (60_exceptions.md R240 to R247) -/

namespace Sys2Proof.Machine

/-! ### load_rom (R240) -/

theorem keepsOutside_writeBytes (s : State) (a : Nat) (vs : List Byte) :
    KeepsOutside [.mem] s (s.writeBytes a vs) := by
  intro p hp
  cases p <;> simp [Part.Kept] at hp ⊢

theorem loadRom_of_fits {bytes : List Byte} (h : bytes.length ≤ 3584) (s : State) :
    loadRom bytes s = .ok (s.writeBytes 0x200 bytes) :=
  if_neg (Nat.not_lt.2 h)

theorem loadRom_of_too_large {bytes : List Byte} (h : 3584 < bytes.length) (s : State) :
    loadRom bytes s = .error .romTooLarge :=
  if_pos h

/-! ### set_key (R242) -/

theorem hostSetKey_of_large {k : Nat} (h : 15 < k) (pressed : Bool) (s : State) :
    hostSetKey k pressed s = .error (.keyIndexOutOfRange k) :=
  dif_neg (by omega)

theorem State.applyOp_setKey_of_ok {s t : State} {k : Nat} {pressed : Bool} (h : hostSetKey k pressed s = .ok t) :
    s.applyOp (.setKey k pressed) = t := by
  simp only [State.applyOp, h]

theorem State.applyOp_setKey_of_error {s : State} {k : Nat} {pressed : Bool} {e : HostFailure}
    (h : hostSetKey k pressed s = .error e) : s.applyOp (.setKey k pressed) = s := by
  simp only [State.applyOp, h]

/-- The key takes the value in every run state; a resume leaves the keys. -/
theorem State.keys_get_setKey (s : State) (k j : Fin 16) (pressed : Bool) :
    (s.setKey k pressed).keys.get j = if j = k then pressed else s.keys.get j := by
  obtain ⟨x, -, rfl, -, h⟩ | ⟨-, h⟩ := s.setKey_cases k pressed <;> rw [h]
  · exact s.keys_get_writeKey k j true
  · exact s.keys_get_writeKey k j pressed

/-- Without a waiting core or a key-down transition, the key is all that changes. -/
theorem State.setKey_eq_writeKey {s : State} {k : Fin 16} {pressed : Bool}
    (h : (∀ x, s.run ≠ .awaitingKey x) ∨ pressed = false ∨ s.keys.get k = true) :
    s.setKey k pressed = s.writeKey k pressed := by
  obtain ⟨x, hx, hp, hup, -⟩ | ⟨-, e⟩ := s.setKey_cases k pressed
  · obtain h | h | h := h
    · exact absurd hx (h x)
    · simp [hp] at h
    · simp [hup] at h
  · exact e

theorem State.pressed_keepsOutside (s : State) (x : Reg) (k : Fin 16) :
    KeepsOutside [.keys, .run, .pc, .V] s ((s.writeKey k true).resume x k) :=
  ((keepsOutside_writeKey s k true).trans (keepsOutside_resume _ x k)).mono (by decide)

end Sys2Proof.Machine

namespace Sys2Proof

open Machine

/-- Settles O49. -/
theorem loadRomCopiesOrRejects : Obligations.LoadRomCopiesOrRejects :=
  fun bytes s => ⟨fun h => loadRom_of_too_large h s, fun h => ⟨_, loadRom_of_fits h s,
    fun j hj => s.read_writeBytes_inside 0x200 j hj, fun _ => State.read_writeBytes_outside,
    (keepsOutside_writeBytes s 0x200 bytes).changesOnly (by decide)⟩⟩

/-- Settles O51: set_key either writes the key alone or writes it and resumes Fx0A, and the two conditions exclude each
other. -/
theorem setKeyUpdatesOrRejects : Obligations.SetKeyUpdatesOrRejects := by
  refine fun s k pressed => ⟨fun hk => ?_, ?_⟩
  · have rejected := hostSetKey_of_large hk pressed s
    exact ⟨rejected, State.applyOp_setKey_of_error rejected⟩
  · rintro j rfl
    have accepted := hostSetKey_of_index j pressed s
    refine ⟨s.setKey j pressed, accepted, State.applyOp_setKey_of_ok accepted, ?_, fun l hl => ?_, ?_, fun h => ?_⟩
    · rw [State.keys_get_setKey, if_pos rfl]
    · rw [State.keys_get_setKey, if_neg hl]
    · rintro x hrun rfl hup
      rw [State.setKey_resumes hrun hup]
      exact ⟨rfl, rfl, State.reg_resume_toNat _ x j, State.writesOnlyRegs_resume (s.writeKey j true) x j,
        (s.pressed_keepsOutside x j).changesOnly (by decide)⟩
    · rw [State.setKey_eq_writeKey h]
      exact (keepsOutside_writeKey s j pressed).changesOnly (by decide)

/-- Settles O50. -/
theorem tickDecrementsBothTimers : Obligations.TickDecrementsBothTimers :=
  fun s => ⟨countDown_toNat s.DT, countDown_toNat s.ST, (keepsOutside_tick s).changesOnly (by decide),
    decide_eq_true_iff⟩

/-- Settles O52. -/
theorem stopHaltsUnlessHalted : Obligations.StopHaltsUnlessHalted := by
  refine fun s => ⟨fun h => State.requestStop_of_not_halted fun r hr => ?_, fun _ => State.requestStop_of_halted⟩
  obtain h | ⟨x, h⟩ := h <;> simp [h] at hr

/-- Settles O55: division and remainder by the row length give back the row and the column. -/
theorem snapshotIsRowMajor : Obligations.SnapshotIsRowMajor := by
  intro s r c
  have hrow : (r.val * 64 + c.val) / 64 = r.val := by omega
  have hcol : (r.val * 64 + c.val) % 64 = c.val := by omega
  rw [State.snapshot, BitVec.getLsbD_ofFnLE, dif_pos (by omega)]
  simp only [hrow, hcol]

end Sys2Proof
end

section
/-! ## The reset and hazards family: the idle loop (70_reset_and_hazards.md R268) -/

namespace Sys2Proof.Machine

theorem State.jump_to_pc (s : State) : s.jump s.pc = s := rfl

theorem execJp_to_pc {s : State} {nnn : Addr12} (h : zext16 nnn = s.pc) : execJp nnn s = .next s := by
  rw [execJp, h, State.jump_to_pc]

theorem State.instructionStep_of_idle {s : State} (h : s.idle) : s.instructionStep = .next s := by
  obtain ⟨running, nnn, fetched, target⟩ := h
  calc s.instructionStep
    _ = execJp nnn s := State.instructionStep_of_fetchDecode running fetched
    _ = .next s := execJp_to_pc target

/-- A fixed point of `step()` is one of `step_n(k)`. -/
theorem State.stepN_of_fixed {s : State} (h : s.instructionStep = .next s) (k : Nat) : s.stepN k = .next s := by
  induction k with
  | zero => rfl
  | succ k ih => rw [State.stepN_succ h, ih]

theorem step_of_quiet {s : State} (h : s.host = []) : step s = s.instructionStep :=
  congrArg State.instructionStep (State.boundary_of_nil h)

end Sys2Proof.Machine

namespace Sys2Proof

open Machine

/-- Settles O60: the jump to pc itself makes the idle state a fixed point of the instruction step. -/
theorem idleLoopLeavesTheStateUnchanged : Obligations.IdleLoopLeavesTheStateUnchanged := by
  intro s idle quiet
  have fixed := State.instructionStep_of_idle idle
  exact ⟨(step_of_quiet quiet).trans fixed, State.stepN_of_fixed fixed⟩

end Sys2Proof
end
